-- ==== Sys2Proof/Word.lean ====
section
/-! DEFINITION. The value types of the CHIP-8 core: bytes, words, 12-bit addresses, register and key numbers
(spec/00_scope.md R5 to R7; spec/10_state.md R20). Every value is unsigned (R7). -/

namespace Sys2Proof

/-- An 8-bit register or memory value (R21, R39). -/
abbrev Byte := BitVec 8

/-- A 16-bit value: an opcode, `PC`, `I` or a stack entry (R80, R25, R27, R29). -/
abbrev Word := BitVec 16

/-- A 12-bit immediate address `nnn` (R81, R82). -/
abbrev Addr := BitVec 12

/-- A register number `0..15` (R21, R83). -/
abbrev RegIdx := Fin 16

/-- A key number `0..15` (R32). -/
abbrev KeyIdx := Fin 16

/-- The number of the flag register `VF` (R5 `FLAG_REG`, R22). -/
abbrev flagReg : RegIdx := 15

end Sys2Proof
end

