-- ==== Sys2Proof/Machine/Flags.lean ====
section
/-! DEFINITION. The results and flags of the arithmetic family (spec/41_arithmetic.md R131, R136 to R140, R142; spec/43_memory_index.md
R181): exact intermediates on natural numbers, then narrowed. Every flag is a byte, 0 or 1, that goes to `V[15]` (R22). -/

namespace Sys2Proof.Machine

/-- The flag byte of a condition. -/
def flagByte (b : Bool) : Byte := if b then 1 else 0

/-- The 9-bit sum `a + b`, `0..510` (R136). -/
def addWide (a b : Byte) : Nat := a.toNat + b.toNat

/-- The sum modulo 256 (R131, R136). -/
def addData (a b : Byte) : Byte := BitVec.ofNat 8 (addWide a b % 256)

/-- The carry: bit 8 of the sum (R136). -/
def addCarry (a b : Byte) : Byte := BitVec.ofNat 8 (addWide a b >>> 8)

/-- The 9-bit difference `(a - b) mod 512` (R137, R139). -/
def subWide (a b : Byte) : Nat := (a.toNat + 512 - b.toNat) % 512

/-- The difference modulo 256 (R137, R139). -/
def subData (a b : Byte) : Byte := BitVec.ofNat 8 (subWide a b % 256)

/-- NOT-borrow: the complement of bit 8 of the difference (R137, R139). -/
def subNotBorrow (a b : Byte) : Byte := flagByte (!(subWide a b).testBit 8)

/-- `b >> 1` (R138). -/
def shrData (b : Byte) : Byte := b >>> 1

/-- The bit shifted out to the right: `b & 1` (R138). -/
def shrOut (b : Byte) : Byte := b &&& 1

/-- `(b << 1) & 0xFF` (R140). -/
def shlData (b : Byte) : Byte := b <<< 1

/-- The bit shifted out to the left: `b >> 7` (R140). -/
def shlOut (b : Byte) : Byte := b >>> 7

/-- The sum `(I & 0xFFF) + a` of `add I,Vx`, `0..0x10FE` (R181). -/
def indexSum (i : Word) (a : Byte) : Nat := i.toNat % 0x1000 + a.toNat

/-- The carry out of the 12-bit address space: `s >> 12` (R181, decision D17). -/
def indexCarry (i : Word) (a : Byte) : Byte := BitVec.ofNat 8 (indexSum i a >>> 12)

end Sys2Proof.Machine
end

