-- ==== Sys2Proof/Syntax.lean ====
section
/-! DEFINITION. The 35 instructions of the opcode map (spec/30_encoding.md R85; spec/opcode_table.json), in the map's
row order, with their decoded operands (R81 to R83). Register numbers, immediates and the `drw` row count have types that
admit exactly the values of their fields. -/

namespace Sys2Proof

/-- One constructor per row of R85. -/
inductive Instr where
  /-- `00E0` `cls` (R162). -/
  | cls
  /-- `00EE` `ret` (R222). -/
  | ret
  /-- `0nnn` `sys nnn`, `nnn` neither `0x0E0` nor `0x0EE` (R221). -/
  | sys (nnn : Addr)
  /-- `1nnn` `jp nnn` (R223). -/
  | jp (nnn : Addr)
  /-- `2nnn` `call nnn` (R224). -/
  | call (nnn : Addr)
  /-- `3xkk` `se Vx,kk` (R225). -/
  | seVxKk (x : RegIdx) (kk : Byte)
  /-- `4xkk` `sne Vx,kk` (R226). -/
  | sneVxKk (x : RegIdx) (kk : Byte)
  /-- `5xy0` `se Vx,Vy` (R227). -/
  | seVxVy (x y : RegIdx)
  /-- `6xkk` `ld Vx,kk` (R130). -/
  | ldVxKk (x : RegIdx) (kk : Byte)
  /-- `7xkk` `add Vx,kk` (R131). -/
  | addVxKk (x : RegIdx) (kk : Byte)
  /-- `8xy0` `ld Vx,Vy` (R132). -/
  | ldVxVy (x y : RegIdx)
  /-- `8xy1` `or Vx,Vy` (R133). -/
  | orVxVy (x y : RegIdx)
  /-- `8xy2` `and Vx,Vy` (R134). -/
  | andVxVy (x y : RegIdx)
  /-- `8xy3` `xor Vx,Vy` (R135). -/
  | xorVxVy (x y : RegIdx)
  /-- `8xy4` `add Vx,Vy` (R136). -/
  | addVxVy (x y : RegIdx)
  /-- `8xy5` `sub Vx,Vy` (R137). -/
  | subVxVy (x y : RegIdx)
  /-- `8xy6` `shr Vx,Vy` (R138). -/
  | shrVxVy (x y : RegIdx)
  /-- `8xy7` `subm Vx,Vy` (R139). -/
  | submVxVy (x y : RegIdx)
  /-- `8xyE` `shl Vx,Vy` (R140). -/
  | shlVxVy (x y : RegIdx)
  /-- `9xy0` `sne Vx,Vy` (R228). -/
  | sneVxVy (x y : RegIdx)
  /-- `Annn` `ld I,nnn` (R180). -/
  | ldINnn (nnn : Addr)
  /-- `Bnnn` `jp V0,nnn` (R229). -/
  | jpV0 (nnn : Addr)
  /-- `Cxkk` `rnd Vx,kk` (R141). -/
  | rnd (x : RegIdx) (kk : Byte)
  /-- `Dxyn` `drw Vx,Vy,n` (R163). -/
  | drw (x y : RegIdx) (n : Fin 16)
  /-- `Ex9E` `skp Vx` (R230). -/
  | skp (x : RegIdx)
  /-- `ExA1` `sknp Vx` (R231). -/
  | sknp (x : RegIdx)
  /-- `Fx07` `ld Vx,DT` (R200). -/
  | ldVxDT (x : RegIdx)
  /-- `Fx0A` `ld Vx,K` (R203). -/
  | ldVxK (x : RegIdx)
  /-- `Fx15` `ld DT,Vx` (R201). -/
  | ldDTVx (x : RegIdx)
  /-- `Fx18` `ld ST,Vx` (R202). -/
  | ldSTVx (x : RegIdx)
  /-- `Fx1E` `add I,Vx` (R181). -/
  | addIVx (x : RegIdx)
  /-- `Fx29` `ld F,Vx` (R182). -/
  | ldFVx (x : RegIdx)
  /-- `Fx33` `ld B,Vx` (R183). -/
  | ldBVx (x : RegIdx)
  /-- `Fx55` `ld [I],Vx` (R184). -/
  | ldMemVx (x : RegIdx)
  /-- `Fx65` `ld Vx,[I]` (R185). -/
  | ldVxMem (x : RegIdx)
  deriving DecidableEq, Repr

end Sys2Proof
end

