-- ==== Sys2Proof/WellFormed.lean ====
section
/-! DEFINITION. The terms of Instr that an opcode spells (spec/30_encoding.md R85, R90). The operand types bound every
field (`x`, `y`, `n` below 16, `kk` below 256, `nnn` below 4096); the one check left is the exclusion of the `sys` row. -/

namespace Sys2Proof

/-- The `sys` row excludes `0x0E0` and `0x0EE`, which are `cls` and `ret` (R85 row 3, 90_conflicts.md C7). -/
def sysAllows (nnn : Addr) : Bool := nnn != 0x0E0#12 && nnn != 0x0EE#12

/-- An instruction is well formed when some opcode is its encoding. -/
def Instr.wellFormed (i : Instr) : Bool :=
  match i with
  | .sys nnn => sysAllows nnn
  | .cls | .ret | .jp _ | .call _ | .seVxKk _ _ | .sneVxKk _ _ | .seVxVy _ _ | .ldVxKk _ _ | .addVxKk _ _
  | .ldVxVy _ _ | .orVxVy _ _ | .andVxVy _ _ | .xorVxVy _ _ | .addVxVy _ _ | .subVxVy _ _ | .shrVxVy _ _
  | .submVxVy _ _ | .shlVxVy _ _ | .sneVxVy _ _ | .ldINnn _ | .jpV0 _ | .rnd _ _ | .drw _ _ _ | .skp _
  | .sknp _ | .ldVxDT _ | .ldVxK _ | .ldDTVx _ | .ldSTVx _ | .addIVx _ | .ldFVx _ | .ldBVx _ | .ldMemVx _
  | .ldVxMem _ => true

end Sys2Proof
end

