-- ==== Sys2Proof/Decode.lean ====
section
/-! DEFINITION. The Decoder (spec/30_encoding.md R81), the Dispatcher's choice of a row (R84 to R87), the encoder
written from the same map (R85, R90), and the host's reading of an opcode-table word. The bit patterns of the map are those
of R85, which the spec marks as general knowledge but for `8xy1` and `8xy2` (PRESUMED, log entry 6). -/

namespace Sys2Proof

/-- The six fields of an opcode; they overlap (R81). -/
structure Fields where
  u : BitVec 4
  x : BitVec 4
  y : BitVec 4
  p : BitVec 4
  kk : Byte
  nnn : Addr
  deriving DecidableEq, Repr

/-- R81: pure bit extraction, defined on every word. -/
def fieldsOf (w : Word) : Fields where
  u := w.extractLsb' 12 4
  x := w.extractLsb' 8 4
  y := w.extractLsb' 4 4
  p := w.extractLsb' 0 4
  kk := w.extractLsb' 0 8
  nnn := w.extractLsb' 0 12

/-- The number a 4-bit field stands for: a register (R83) or a row count (R82). -/
def nibble (b : BitVec 4) : Fin 16 := b.toFin

/-- The 4-bit field that stands for a number. -/
def ofNibble (n : Fin 16) : BitVec 4 := BitVec.ofFin n

/-- One row of the opcode map: its guard and the instruction it selects (R84, R85). -/
structure Row where
  guard : Fields → Bool
  build : Fields → Instr

/-- R85, rows 1 to 10. -/
def rowsLow : List Row :=
  [ ⟨fun f => f.u == 0x0 && f.nnn == 0x0E0, fun _ => .cls⟩,
    ⟨fun f => f.u == 0x0 && f.nnn == 0x0EE, fun _ => .ret⟩,
    ⟨fun f => f.u == 0x0 && sysAllows f.nnn, fun f => .sys f.nnn⟩,
    ⟨fun f => f.u == 0x1, fun f => .jp f.nnn⟩,
    ⟨fun f => f.u == 0x2, fun f => .call f.nnn⟩,
    ⟨fun f => f.u == 0x3, fun f => .seVxKk (nibble f.x) f.kk⟩,
    ⟨fun f => f.u == 0x4, fun f => .sneVxKk (nibble f.x) f.kk⟩,
    ⟨fun f => f.u == 0x5 && f.p == 0x0, fun f => .seVxVy (nibble f.x) (nibble f.y)⟩,
    ⟨fun f => f.u == 0x6, fun f => .ldVxKk (nibble f.x) f.kk⟩,
    ⟨fun f => f.u == 0x7, fun f => .addVxKk (nibble f.x) f.kk⟩ ]

/-- R85, rows 11 to 19: class 8, told apart by `p`. -/
def rowsArith : List Row :=
  [ ⟨fun f => f.u == 0x8 && f.p == 0x0, fun f => .ldVxVy (nibble f.x) (nibble f.y)⟩,
    ⟨fun f => f.u == 0x8 && f.p == 0x1, fun f => .orVxVy (nibble f.x) (nibble f.y)⟩,
    ⟨fun f => f.u == 0x8 && f.p == 0x2, fun f => .andVxVy (nibble f.x) (nibble f.y)⟩,
    ⟨fun f => f.u == 0x8 && f.p == 0x3, fun f => .xorVxVy (nibble f.x) (nibble f.y)⟩,
    ⟨fun f => f.u == 0x8 && f.p == 0x4, fun f => .addVxVy (nibble f.x) (nibble f.y)⟩,
    ⟨fun f => f.u == 0x8 && f.p == 0x5, fun f => .subVxVy (nibble f.x) (nibble f.y)⟩,
    ⟨fun f => f.u == 0x8 && f.p == 0x6, fun f => .shrVxVy (nibble f.x) (nibble f.y)⟩,
    ⟨fun f => f.u == 0x8 && f.p == 0x7, fun f => .submVxVy (nibble f.x) (nibble f.y)⟩,
    ⟨fun f => f.u == 0x8 && f.p == 0xE, fun f => .shlVxVy (nibble f.x) (nibble f.y)⟩ ]

/-- R85, rows 20 to 26. -/
def rowsMid : List Row :=
  [ ⟨fun f => f.u == 0x9 && f.p == 0x0, fun f => .sneVxVy (nibble f.x) (nibble f.y)⟩,
    ⟨fun f => f.u == 0xA, fun f => .ldINnn f.nnn⟩,
    ⟨fun f => f.u == 0xB, fun f => .jpV0 f.nnn⟩,
    ⟨fun f => f.u == 0xC, fun f => .rnd (nibble f.x) f.kk⟩,
    ⟨fun f => f.u == 0xD, fun f => .drw (nibble f.x) (nibble f.y) (nibble f.p)⟩,
    ⟨fun f => f.u == 0xE && f.kk == 0x9E, fun f => .skp (nibble f.x)⟩,
    ⟨fun f => f.u == 0xE && f.kk == 0xA1, fun f => .sknp (nibble f.x)⟩ ]

/-- R85, rows 27 to 35: class F, told apart by `kk`. -/
def rowsHigh : List Row :=
  [ ⟨fun f => f.u == 0xF && f.kk == 0x07, fun f => .ldVxDT (nibble f.x)⟩,
    ⟨fun f => f.u == 0xF && f.kk == 0x0A, fun f => .ldVxK (nibble f.x)⟩,
    ⟨fun f => f.u == 0xF && f.kk == 0x15, fun f => .ldDTVx (nibble f.x)⟩,
    ⟨fun f => f.u == 0xF && f.kk == 0x18, fun f => .ldSTVx (nibble f.x)⟩,
    ⟨fun f => f.u == 0xF && f.kk == 0x1E, fun f => .addIVx (nibble f.x)⟩,
    ⟨fun f => f.u == 0xF && f.kk == 0x29, fun f => .ldFVx (nibble f.x)⟩,
    ⟨fun f => f.u == 0xF && f.kk == 0x33, fun f => .ldBVx (nibble f.x)⟩,
    ⟨fun f => f.u == 0xF && f.kk == 0x55, fun f => .ldMemVx (nibble f.x)⟩,
    ⟨fun f => f.u == 0xF && f.kk == 0x65, fun f => .ldVxMem (nibble f.x)⟩ ]

/-- The 35 rows of R85, in priority order. -/
def opcodeMap : List Row := rowsLow ++ rowsArith ++ rowsMid ++ rowsHigh

/-- Why a sequence of bytes is no instruction. -/
inductive Reject where
  /-- The word matches no guard of R85 (R86). The machine goes on: it takes the unknown-opcode path (R116). -/
  | unknownOpcode (w : Word)
  /-- Fewer than the two bytes every opcode has (R80). Raised by `decodeBytes` only; a fetch always has two bytes. -/
  | truncated
  deriving DecidableEq, Repr

/-- R84: the first row whose guard matches selects the instruction; if none matches, the word is unknown (R86). -/
def decode (w : Word) : Except Reject Instr :=
  match opcodeMap.find? (fun r => r.guard (fieldsOf w)) with
  | some r => .ok (r.build (fieldsOf w))
  | none => .error (.unknownOpcode w)

/-- R62, R80: the opcode is big-endian in two bytes, the first one bits 15..8. -/
def wordOfBytes (hi lo : Byte) : Word := hi ++ lo

/-- Decode the first instruction of a sequence of bytes, with the bytes after it. -/
def decodeBytes (bs : List Byte) : Except Reject (Instr × List Byte) :=
  match bs with
  | hi :: lo :: rest =>
    match decode (wordOfBytes hi lo) with
    | .ok i => .ok (i, rest)
    | .error e => .error e
  | [_] => .error .truncated
  | [] => .error .truncated

/-- R90, pattern `unnn`. -/
def wordNnn (u : BitVec 4) (nnn : Addr) : Word := u ++ nnn

/-- R90, pattern `uxkk`. -/
def wordXkk (u : BitVec 4) (x : RegIdx) (kk : Byte) : Word := u ++ (ofNibble x ++ kk : BitVec 12)

/-- R90, pattern `uxyp`. -/
def wordXyp (u : BitVec 4) (x y : RegIdx) (p : BitVec 4) : Word :=
  u ++ (ofNibble x ++ (ofNibble y ++ p : BitVec 8) : BitVec 12)

/-- R90: the opcode of an instruction, from its pattern in R85. -/
def encode (i : Instr) : Word :=
  match i with
  | .cls => wordNnn 0x0 0x0E0
  | .ret => wordNnn 0x0 0x0EE
  | .sys nnn => wordNnn 0x0 nnn
  | .jp nnn => wordNnn 0x1 nnn
  | .call nnn => wordNnn 0x2 nnn
  | .seVxKk x kk => wordXkk 0x3 x kk
  | .sneVxKk x kk => wordXkk 0x4 x kk
  | .seVxVy x y => wordXyp 0x5 x y 0x0
  | .ldVxKk x kk => wordXkk 0x6 x kk
  | .addVxKk x kk => wordXkk 0x7 x kk
  | .ldVxVy x y => wordXyp 0x8 x y 0x0
  | .orVxVy x y => wordXyp 0x8 x y 0x1
  | .andVxVy x y => wordXyp 0x8 x y 0x2
  | .xorVxVy x y => wordXyp 0x8 x y 0x3
  | .addVxVy x y => wordXyp 0x8 x y 0x4
  | .subVxVy x y => wordXyp 0x8 x y 0x5
  | .shrVxVy x y => wordXyp 0x8 x y 0x6
  | .submVxVy x y => wordXyp 0x8 x y 0x7
  | .shlVxVy x y => wordXyp 0x8 x y 0xE
  | .sneVxVy x y => wordXyp 0x9 x y 0x0
  | .ldINnn nnn => wordNnn 0xA nnn
  | .jpV0 nnn => wordNnn 0xB nnn
  | .rnd x kk => wordXkk 0xC x kk
  | .drw x y n => wordXyp 0xD x y (ofNibble n)
  | .skp x => wordXkk 0xE x 0x9E
  | .sknp x => wordXkk 0xE x 0xA1
  | .ldVxDT x => wordXkk 0xF x 0x07
  | .ldVxK x => wordXkk 0xF x 0x0A
  | .ldDTVx x => wordXkk 0xF x 0x15
  | .ldSTVx x => wordXkk 0xF x 0x18
  | .addIVx x => wordXkk 0xF x 0x1E
  | .ldFVx x => wordXkk 0xF x 0x29
  | .ldBVx x => wordXkk 0xF x 0x33
  | .ldMemVx x => wordXkk 0xF x 0x55
  | .ldVxMem x => wordXkk 0xF x 0x65

/-- The byte of an opcode that memory holds at the lower address (R62). -/
def highByte (w : Word) : Byte := w.extractLsb' 8 8

/-- The byte of an opcode that memory holds at the higher address (R62). -/
def lowByte (w : Word) : Byte := w.extractLsb' 0 8

/-- The two bytes of an instruction as memory holds them (R62). -/
def encodeBytes (i : Instr) : List Byte := [highByte (encode i), lowByte (encode i)]

/-- The opcode that `nbits` bits `w` of spec/opcode_table.json stand for; every bit above `nbits` is 0. -/
def tableWord (nbits w : Nat) : Word := BitVec.ofNat 16 (w % 2 ^ nbits)

/-- The instruction the decoder reads from an opcode-table word laid out as memory holds it. -/
def decodeTableWord (nbits w : Nat) : Option Instr :=
  match decodeBytes [highByte (tableWord nbits w), lowByte (tableWord nbits w)] with
  | .ok (i, _) => some i
  | .error _ => none

end Sys2Proof
end

