-- ==== Sys2Proof/Config.lean ====
section
/-! DEFINITION. What is fixed for one machine: the parameters the spec lets a model take as an argument
(spec/00_scope.md R5), and the free value the spec leaves to the random generator (spec/10_state.md R37). -/

namespace Sys2Proof

/-- `STACK_DEPTH` (R5, decision D25): 16, with 12 as the named alternative. -/
inductive StackDepth where
  | d16
  | d12
  deriving DecidableEq, Repr

/-- The number of stack entries a `StackDepth` stands for (R29). -/
def StackDepth.toNat : StackDepth → Nat
  | .d16 => 16
  | .d12 => 12

/-- `ADD_I_VF` (R5, decision D17): whether `add I,Vx` writes the carry out of the 12-bit address space to `VF`. -/
inductive AddIVf where
  | carry12
  | unchanged
  deriving DecidableEq, Repr

/-- `RESET_REGS` (decision D2): the reset values of the registers for which the source gives none. -/
structure ResetRegs where
  v : Vector Byte 16
  i : Word
  dt : Byte
  st : Byte
  stack : Vector Word 16
  deriving DecidableEq, Repr

/-- The parameters of one machine (R5). DESIGN CHOICE (log entry 1): a State carries them, and no step changes them,
so that a claim about every state is a claim for every value of every parameter. -/
structure Config where
  /-- `STACK_DEPTH`. -/
  stackDepth : StackDepth
  /-- `ADD_I_VF`. -/
  addIVf : AddIVf
  /-- `LDST_INCREMENTS_I` (decision D19). -/
  ldstIncrementsI : Bool
  /-- `FONT_BASE` (decision D6): any address with `FONT_BASE + 79 < 0x200`. -/
  fontBase : Fin 433
  /-- `FONT_DATA` (R35, decision D7): 16 glyphs of 5 bytes, top row first. -/
  fontData : Vector (Vector Byte 5) 16
  /-- `RESET_REGS` (decision D2). -/
  resetRegs : ResetRegs
  deriving DecidableEq, Repr

/-- FREE VALUE (log entry 4): the byte the random generator supplies at its `n`-th draw (R37, R141, R264; decision D15).
It has no body, so a claim about it holds for every sequence of draws. -/
opaque Config.randomByte : Nat → Byte

end Sys2Proof
end

