-- ==== Sys2Proof/Machine/Params.lean ====
section
/-! DEFINITION. The default values of the parameters (spec/00_scope.md R5, log entry 2), the font (spec/10_state.md R35)
and the reset contents of memory (R41; spec/70_reset_and_hazards.md R280). -/

namespace Sys2Proof.Machine

/-- `FONT_DATA` by default: the table of R35, glyph 0 first (decision D7; PRESUMED by the spec, log entry 5). -/
def defaultFont : Vector (Vector Byte 5) 16 :=
  #v[ #v[0xF0, 0x90, 0x90, 0x90, 0xF0], #v[0x20, 0x60, 0x20, 0x20, 0x70],
      #v[0xF0, 0x10, 0xF0, 0x80, 0xF0], #v[0xF0, 0x10, 0xF0, 0x10, 0xF0],
      #v[0x90, 0x90, 0xF0, 0x10, 0x10], #v[0xF0, 0x80, 0xF0, 0x10, 0xF0],
      #v[0xF0, 0x80, 0xF0, 0x90, 0xF0], #v[0xF0, 0x10, 0x20, 0x40, 0x40],
      #v[0xF0, 0x90, 0xF0, 0x90, 0xF0], #v[0xF0, 0x90, 0xF0, 0x10, 0xF0],
      #v[0xF0, 0x90, 0xF0, 0x90, 0x90], #v[0xE0, 0x90, 0xE0, 0x90, 0xE0],
      #v[0xF0, 0x80, 0x80, 0x80, 0xF0], #v[0xE0, 0x90, 0x90, 0x90, 0xE0],
      #v[0xF0, 0x80, 0xF0, 0x80, 0xF0], #v[0xF0, 0x80, 0xF0, 0x80, 0x80] ]

/-- `RESET_REGS` by default: all zero (decision D2, log entry 3). -/
def zeroRegs : ResetRegs where
  v := Vector.replicate 16 0
  i := 0
  dt := 0
  st := 0
  stack := Vector.replicate 16 0

/-- The parameters at their defaults (R5, log entry 2). -/
def defaultConfig : Config where
  stackDepth := .d16
  addIVf := .carry12
  ldstIncrementsI := true
  fontBase := 0
  fontData := defaultFont
  resetRegs := zeroRegs

/-- `PC_RESET` (R5, R41, R68). -/
def resetPc : Word := 0x200

/-- Byte `k` of the 80-byte font table: row `k mod 5` of glyph `k div 5` (R35). -/
def fontByte (c : Config) (k : Nat) : Byte :=
  (c.fontData[Fin.ofNat 16 (k / 5)])[Fin.ofNat 5 k]

/-- The byte memory holds at address `a` after reset: the font at `FONT_BASE`, zero elsewhere (R41, R280). It is also what
an address that the memory list does not name reads as (log entry 7). -/
def resetByte (c : Config) (a : Nat) : Byte :=
  if c.fontBase.val ≤ a ∧ a < c.fontBase.val + 80 then fontByte c (a - c.fontBase.val) else 0

end Sys2Proof.Machine
end

