-- ==== Sys2Proof/Machine/Memory.lean ====
section
/-! DEFINITION. The 4096-byte memory as a canonical list of cells (spec/20_memory.md R60, R61; spec/10_state.md R39). The
list holds the bytes that differ from their reset value, in rising address order; an address it does not name reads as its
reset byte (log entry 7). -/

namespace Sys2Proof.Machine

/-- The cells of memory that differ from reset. -/
abbrev Memory := List Host.Cell

/-- `mask12(a) = a & 0xFFF` (R61; 00_scope.md R8), for any natural number `a`. -/
def mask12 (a : Nat) : Nat := a % 0x1000

/-- The value listed for an address, if one is. -/
def Memory.lookup (a : Nat) : Memory → Option Byte
  | [] => none
  | (b, v) :: rest => if a = b then some v else Memory.lookup a rest

/-- Put a cell at its place in the rising order, over the one already listed for its address. -/
def Memory.insert (a : Nat) (v : Byte) : Memory → Memory
  | [] => [(a, v)]
  | (b, w) :: rest =>
    if a < b then (a, v) :: (b, w) :: rest
    else if a = b then (a, v) :: rest
    else (b, w) :: Memory.insert a v rest

/-- Take the cell of an address out of the list. -/
def Memory.remove (a : Nat) (m : Memory) : Memory := m.filter (fun cell => cell.1 != a)

/-- R61: read the byte at `a & 0xFFF`. -/
def Memory.read (c : Config) (m : Memory) (a : Nat) : Byte :=
  (Memory.lookup (mask12 a) m).getD (resetByte c (mask12 a))

/-- R61: write the byte at `a & 0xFFF`; writing a byte's reset value takes its cell out of the list. -/
def Memory.write (c : Config) (m : Memory) (a : Nat) (v : Byte) : Memory :=
  if v = resetByte c (mask12 a) then Memory.remove (mask12 a) m else Memory.insert (mask12 a) v m

/-- The listed addresses rise strictly. -/
def Memory.rising : Memory → Bool
  | [] => true
  | [_] => true
  | (a, _) :: (b, w) :: rest => decide (a < b) && Memory.rising ((b, w) :: rest)

/-- The canonical form: addresses strictly rising, all of them in the 12-bit space, no cell at its reset value. -/
def Memory.wf (c : Config) (m : Memory) : Bool :=
  Memory.rising m && m.all (fun cell => decide (cell.1 < 0x1000) && cell.2 != resetByte c cell.1)

end Sys2Proof.Machine
end

