-- ==== Sys2Proof/Machine/State.lean ====
section
/-! DEFINITION. The State Store (spec/10_state.md R20): every piece of architectural state, as plain data, and the state
after reset (R41; spec/70_reset_and_hazards.md R280). -/

namespace Sys2Proof.Machine

/-- The display: a 1-bit-per-pixel bitmap, 32 rows of 64 pixels, row 0 at the top (R33; 42_display.md R160). A row holds its
leftmost pixel, column 0, in its most significant bit (log entry 25); pixels are read by `Display.pixel`. -/
abbrev Display := Vector (BitVec 64) 32

/-- The display with every pixel off. -/
def blankDisplay : Display := Vector.replicate 32 0

/-- The State Store (R20). -/
@[ext]
structure State where
  /-- MODEL'S OWN: the parameters of the machine (00_scope.md R5; log entry 1). No step changes them. -/
  config : Config
  /-- `V[0..15]` (R21); `V[15]` is also the flag register (R22). -/
  v : Vector Byte 16
  /-- `I` (R27). -/
  i : Word
  /-- `PC` (R25): 16 bits that hold a 12-bit value. -/
  pc : Word
  /-- `SP` (R29): the top-of-stack index. -/
  sp : Fin 16
  /-- `stack` (R29). With `STACK_DEPTH = 12` entries 12 to 15 are not part of the machine (log entry 9). -/
  stack : Vector Word 16
  /-- `DT`, the delay timer (R31). -/
  dt : Byte
  /-- `ST`, the sound timer (R31). -/
  st : Byte
  /-- `keys[0..15]` (R32): `true` is pressed. -/
  keys : Vector Bool 16
  /-- `Disp[0..31][0..63]` (R33): a 1 bit is on. -/
  disp : Display
  /-- `waitingKey` (R36): the destination register of a pending key-wait. -/
  waitingKey : Option RegIdx
  /-- `unknownCount` (R38). -/
  unknownCount : Nat
  /-- MODEL'S OWN: how many random bytes have been drawn (log entry 4). -/
  draws : Nat
  /-- `mem` (R39): the cells that differ from reset (log entry 7). -/
  mem : Memory
  deriving DecidableEq, Repr

/-- Why a step would stop. The core raises no exception and every step has a successor state (60_exceptions.md R250,
40_step_driver.md R119), so there is no reason: nothing raises one. Safe: no behaviour is cut short. -/
inductive Fault where
  deriving DecidableEq, Repr

/-- Why a step would have no meaning. -/
inductive Refusal where
  /-- An instruction without a meaning yet, by its mnemonic. Raised by no arm of `exec`: all 35 instructions have their
  meaning. Safe: it would only stop a run. -/
  | notModelled (mnemonic : String)
  deriving DecidableEq, Repr

/-- The state right after creation, for any parameters (R41, R280). The values that only decision D2 gives are log entry 3;
`draws` starts at 0 by DESIGN CHOICE (log entry 4). -/
def State.create (c : Config) : State where
  config := c
  v := c.resetRegs.v
  i := c.resetRegs.i
  pc := resetPc
  sp := 0
  stack := c.resetRegs.stack
  dt := c.resetRegs.dt
  st := c.resetRegs.st
  keys := Vector.replicate 16 false
  disp := blankDisplay
  waitingKey := none
  unknownCount := 0
  draws := 0
  mem := []

/-- The machine right after reset, with the default parameters (R41). -/
def State.reset : State := State.create defaultConfig

end Sys2Proof.Machine
end

