-- ==== Sys2Proof/Machine/Ops.lean ====
section
/-! DEFINITION. The named operations over registers, memory, the stack, the display and the keys that every meaning is
written with (spec/00_scope.md R8; spec/10_state.md R22, R25, R27, R29; spec/20_memory.md R61). The core takes no exception
and returns from none (60_exceptions.md R250, R254, R255), so there is no such operation. -/

namespace Sys2Proof.Machine

/-- `V[x]` (R8, R21). -/
def State.reg (s : State) (x : RegIdx) : Byte := s.v[x]

/-- `V[x] <- b` (R8, R21). -/
def State.setReg (s : State) (x : RegIdx) (b : Byte) : State := { s with v := s.v.set x.val b x.isLt }

/-- The flag write `V[15] <- f` (R22). -/
def State.setFlag (s : State) (f : Byte) : State := s.setReg flagReg f

/-- R22: the data write, then the flag write, which is the last write of the instruction. -/
def State.setRegFlag (s : State) (x : RegIdx) (data flag : Byte) : State := (s.setReg x data).setFlag flag

/-- `PC <- t` stores `t & 0xFFF` (R25, decision D3). -/
def State.setPc (s : State) (t : Nat) : State := { s with pc := BitVec.ofNat 16 (mask12 t) }

/-- `I <- t` stores `t mod 2^16` (R27). -/
def State.setI (s : State) (t : Nat) : State := { s with i := BitVec.ofNat 16 t }

/-- `DT <- b` (R31). -/
def State.setDt (s : State) (b : Byte) : State := { s with dt := b }

/-- `ST <- b` (R31). -/
def State.setSt (s : State) (b : Byte) : State := { s with st := b }

/-- `waitingKey <- w` (R36). -/
def State.setWaiting (s : State) (w : Option RegIdx) : State := { s with waitingKey := w }

/-- `Disp <- d` (R33). -/
def State.setDisp (s : State) (d : Display) : State := { s with disp := d }

/-- `MemRead(a, 1)` (R61). -/
def State.memRead (s : State) (a : Nat) : Byte := Memory.read s.config s.mem a

/-- `MemWrite(a, 1, b)` (R61). -/
def State.memWrite (s : State) (a : Nat) (b : Byte) : State := { s with mem := Memory.write s.config s.mem a b }

/-- Write bytes at `a`, `a + 1`, … in ascending order, each address masked for itself (R61, R64). -/
def State.storeBytes (s : State) (a : Nat) (bs : List Byte) : State :=
  match bs with
  | [] => s
  | b :: rest => (s.memWrite a b).storeBytes (a + 1) rest

/-- The values of `V[0], …, V[n-1]`. -/
def State.regsBelow (s : State) (n : Nat) : List Byte := (List.range n).map (fun k => s.reg (Fin.ofNat 16 k))

/-- Load `V[0], …, V[n-1]` from `base`, `base + 1`, … in ascending order (R185). -/
def State.loadRegs (s : State) (base n : Nat) : State :=
  match n with
  | 0 => s
  | k + 1 => (s.loadRegs base k).setReg (Fin.ofNat 16 k) ((s.loadRegs base k).memRead (base + k))

/-- `Skip(): PC <- PC + 2` (R220), taken when the condition holds. -/
def State.skipIf (s : State) (taken : Bool) : State := if taken then s.setPc (s.pc.toNat + 2) else s

/-- `STACK_DEPTH` of this machine (R29). -/
def State.depth (s : State) : Nat := s.config.stackDepth.toNat

/-- `(SP + 1) mod STACK_DEPTH` (R29). -/
def State.spUp (s : State) : Fin 16 := Fin.ofNat 16 ((s.sp.val + 1) % s.depth)

/-- `(SP - 1) mod STACK_DEPTH`, where `(0 - 1) mod 16 = 15` (R29). -/
def State.spDown (s : State) : Fin 16 := Fin.ofNat 16 ((s.sp.val + s.depth - 1) % s.depth)

/-- `stack[SP]` (R29). -/
def State.stackTop (s : State) : Word := s.stack[s.sp]

/-- `Push(w)` (R29, decision D4): step `SP` up, then write the entry it indexes. -/
def State.push (s : State) (w : Word) : State :=
  { s with sp := s.spUp, stack := s.stack.set s.spUp.val w s.spUp.isLt }

/-- What `Pop()` leaves (R29, decision D4): `SP` stepped down; the entry read stays where it is. -/
def State.pop (s : State) : State := { s with sp := s.spDown }

/-- The next random byte: a free value (R37, R141; log entry 4). -/
def State.nextDraw (s : State) : Byte := Config.randomByte s.draws

/-- Take the next random byte: a later `rnd` draws another. -/
def State.takeDraw (s : State) : State := { s with draws := s.draws + 1 }

/-- R116: count an unknown opcode. -/
def State.countUnknown (s : State) : State := { s with unknownCount := s.unknownCount + 1 }

/-- `keys[k]` (R8, R32). -/
def State.key (s : State) (k : KeyIdx) : Bool := s.keys[k]

/-- The lowest pressed key, if one is pressed (R112, decision D13). -/
def State.firstPressed (s : State) : Option KeyIdx := (List.finRange 16).find? (fun k => s.key k)

/-- `Disp[r][c]` (R8, R33). -/
def Display.pixel (d : Display) (r : Fin 32) (c : Fin 64) : Bool := d[r].getLsbD (63 - c.val)

/-- `Disp[r][c] <- Disp[r][c] ^ 1` (R163). -/
def Display.toggle (d : Display) (r : Fin 32) (c : Fin 64) : Display :=
  d.set r.val (d[r] ^^^ BitVec.twoPow 64 (63 - c.val)) r.isLt

/-- A draw in progress: the display so far, and whether a lit pixel was turned off (R163 `hit`). -/
structure Blit where
  disp : Display
  hit : Bool
  deriving DecidableEq, Repr

/-- One sprite bit at pixel `(r, c)` (R163): a 1 bit toggles the pixel and records a collision with a lit one. -/
def Blit.plot (b : Blit) (r : Fin 32) (c : Fin 64) (bit : Bool) : Blit :=
  if bit then ⟨b.disp.toggle r c, b.hit || b.disp.pixel r c⟩ else b

/-- The leftmost `n` bits of a sprite byte at row `r`, from column `col`, wrapping (R160, R161, R163): bit `7 - j` goes
to column `(col + j) mod 64`. -/
def Blit.bits (b : Blit) (r : Fin 32) (col : Nat) (sprite : Byte) (n : Nat) : Blit :=
  match n with
  | 0 => b
  | j + 1 => (b.bits r col sprite j).plot r (Fin.ofNat 64 (col + j)) (sprite.getLsbD (7 - j))

/-- The first `n` rows of a sprite, top row first, from row `row` and column `col`, wrapping (R160, R163). `rowByte k`
is the sprite byte of row `k`. -/
def Blit.rows (b : Blit) (row col : Nat) (rowByte : Nat → Byte) (n : Nat) : Blit :=
  match n with
  | 0 => b
  | k + 1 => (b.rows row col rowByte k).bits (Fin.ofNat 32 (row + k)) col (rowByte k) 8

end Sys2Proof.Machine
end

