-- ==== Sys2Proof/Machine/Operands.lean ====
section
/-! DEFINITION. The operand forms (spec/30_encoding.md R82, R83; spec/43_memory_index.md): registers, zero-extended
immediates, the `I`-relative address, the computed jump target, and the two indices taken from a register's low nibble. -/

namespace Sys2Proof.Machine

/-- An address immediate, zero-extended (R82). -/
def addrImm (nnn : Addr) : Nat := nnn.toNat

/-- `V[x] & 0xF`: a key number (R230, decision D20) or a glyph number (R182, decision D18); log entry 16. -/
def lowNibble (b : Byte) : Fin 16 := Fin.ofNat 16 b.toNat

/-- The key that `skp`/`sknp` test (R230, R231). -/
def State.keyOperand (s : State) (x : RegIdx) : KeyIdx := lowNibble (s.reg x)

/-- The address of the glyph that `ld F,Vx` points at: `FONT_BASE + 5 * g` (R182). -/
def State.glyphAddr (s : State) (x : RegIdx) : Nat := s.config.fontBase.val + 5 * (lowNibble (s.reg x)).val

/-- The effective address `I + k` of a memory operand, before its mask (43_memory_index.md; R61). -/
def State.indexAddr (s : State) (k : Nat) : Nat := s.i.toNat + k

/-- The target of `jp V0,nnn`: `nnn + V[0]`, always `V[0]` (R83, R229). -/
def State.jumpV0Target (s : State) (nnn : Addr) : Nat := addrImm nnn + (s.reg 0).toNat

/-- The three decimal digits of a byte: hundreds, tens, ones (R183). -/
def bcdDigits (b : Byte) : List Byte :=
  [BitVec.ofNat 8 (b.toNat / 100), BitVec.ofNat 8 (b.toNat / 10 % 10), BitVec.ofNat 8 (b.toNat % 10)]

/-- `I` after a block transfer of `V[0..x]`: past the block, or as it was (R184, R185; `LDST_INCREMENTS_I`, decision D19). -/
def State.indexAfterBlock (s : State) (x : RegIdx) : Nat :=
  if s.config.ldstIncrementsI then s.i.toNat + x.val + 1 else s.i.toNat

end Sys2Proof.Machine
end

