-- ==== Sys2Proof/Machine/Arithmetic.lean ====
section
/-! DEFINITION. Register arithmetic and logic (spec/41_arithmetic.md R130 to R141). Every meaning runs on the state after
the fetch advance (40_step_driver.md R120; log entry 23). -/

namespace Sys2Proof.Machine

/-- `ld Vx,kk` (R130). -/
def execLdVxKk (x : RegIdx) (kk : Byte) (s : State) : Host.Outcome State Fault Refusal := .next (s.setReg x kk)

/-- `add Vx,kk` (R131): no flag (decision D14; log entry 13). -/
def execAddVxKk (x : RegIdx) (kk : Byte) (s : State) : Host.Outcome State Fault Refusal :=
  .next (s.setReg x (addData (s.reg x) kk))

/-- `ld Vx,Vy` (R132). -/
def execLdVxVy (x y : RegIdx) (s : State) : Host.Outcome State Fault Refusal := .next (s.setReg x (s.reg y))

/-- `or Vx,Vy` (R133): no flag (decision D14; log entry 13). -/
def execOrVxVy (x y : RegIdx) (s : State) : Host.Outcome State Fault Refusal :=
  .next (s.setReg x (s.reg x ||| s.reg y))

/-- `and Vx,Vy` (R134): no flag (decision D14; log entry 13). -/
def execAndVxVy (x y : RegIdx) (s : State) : Host.Outcome State Fault Refusal :=
  .next (s.setReg x (s.reg x &&& s.reg y))

/-- `xor Vx,Vy` (R135): no flag (decision D14; log entry 13). -/
def execXorVxVy (x y : RegIdx) (s : State) : Host.Outcome State Fault Refusal :=
  .next (s.setReg x (s.reg x ^^^ s.reg y))

/-- `add Vx,Vy` (R136). -/
def execAddVxVy (x y : RegIdx) (s : State) : Host.Outcome State Fault Refusal :=
  .next (s.setRegFlag x (addData (s.reg x) (s.reg y)) (addCarry (s.reg x) (s.reg y)))

/-- `sub Vx,Vy` (R137). -/
def execSubVxVy (x y : RegIdx) (s : State) : Host.Outcome State Fault Refusal :=
  .next (s.setRegFlag x (subData (s.reg x) (s.reg y)) (subNotBorrow (s.reg x) (s.reg y)))

/-- `shr Vx,Vy` (R138): the source is `Vy`. -/
def execShrVxVy (x y : RegIdx) (s : State) : Host.Outcome State Fault Refusal :=
  .next (s.setRegFlag x (shrData (s.reg y)) (shrOut (s.reg y)))

/-- `subm Vx,Vy` (R139): `Vy - Vx` (PRESUMED by the spec; log entry 24). -/
def execSubmVxVy (x y : RegIdx) (s : State) : Host.Outcome State Fault Refusal :=
  .next (s.setRegFlag x (subData (s.reg y) (s.reg x)) (subNotBorrow (s.reg y) (s.reg x)))

/-- `shl Vx,Vy` (R140): the source is `Vy`. -/
def execShlVxVy (x y : RegIdx) (s : State) : Host.Outcome State Fault Refusal :=
  .next (s.setRegFlag x (shlData (s.reg y)) (shlOut (s.reg y)))

/-- `rnd Vx,kk` (R141): one fresh random byte, a free value, ANDed with `kk` (log entry 4). -/
def execRnd (x : RegIdx) (kk : Byte) (s : State) : Host.Outcome State Fault Refusal :=
  .next (s.takeDraw.setReg x (s.nextDraw &&& kk))

end Sys2Proof.Machine
end

