-- ==== Sys2Proof/Machine/Control.lean ====
section
/-! DEFINITION. Control transfer and skips (spec/45_control_flow.md R220 to R232). `PC` is the address after the opcode. -/

namespace Sys2Proof.Machine

/-- `sys nnn` (R221): executed as a no-op (decision D11; log entry 10). -/
def execSys (_ : Addr) (s : State) : Host.Outcome State Fault Refusal := .next s

/-- `ret` (R222): `PC <- Pop()`. -/
def execRet (s : State) : Host.Outcome State Fault Refusal := .next (s.pop.setPc s.stackTop.toNat)

/-- `jp nnn` (R223). -/
def execJp (nnn : Addr) (s : State) : Host.Outcome State Fault Refusal := .next (s.setPc (addrImm nnn))

/-- `call nnn` (R224): `Push(PC)`, then `PC <- nnn`. -/
def execCall (nnn : Addr) (s : State) : Host.Outcome State Fault Refusal := .next ((s.push s.pc).setPc (addrImm nnn))

/-- `se Vx,kk` (R225). -/
def execSeVxKk (x : RegIdx) (kk : Byte) (s : State) : Host.Outcome State Fault Refusal :=
  .next (s.skipIf (s.reg x == kk))

/-- `sne Vx,kk` (R226). -/
def execSneVxKk (x : RegIdx) (kk : Byte) (s : State) : Host.Outcome State Fault Refusal :=
  .next (s.skipIf (s.reg x != kk))

/-- `se Vx,Vy` (R227). -/
def execSeVxVy (x y : RegIdx) (s : State) : Host.Outcome State Fault Refusal :=
  .next (s.skipIf (s.reg x == s.reg y))

/-- `sne Vx,Vy` (R228). -/
def execSneVxVy (x y : RegIdx) (s : State) : Host.Outcome State Fault Refusal :=
  .next (s.skipIf (s.reg x != s.reg y))

/-- `jp V0,nnn` (R229). -/
def execJpV0 (nnn : Addr) (s : State) : Host.Outcome State Fault Refusal := .next (s.setPc (s.jumpV0Target nnn))

/-- `skp Vx` (R230). -/
def execSkp (x : RegIdx) (s : State) : Host.Outcome State Fault Refusal := .next (s.skipIf (s.key (s.keyOperand x)))

/-- `sknp Vx` (R231). -/
def execSknp (x : RegIdx) (s : State) : Host.Outcome State Fault Refusal := .next (s.skipIf (!s.key (s.keyOperand x)))

end Sys2Proof.Machine
end

