-- ==== Sys2Proof/Machine/Graphics.lean ====
section
/-! DEFINITION. Display instructions (spec/42_display.md R160 to R163). -/

namespace Sys2Proof.Machine

/-- `cls` (R162). -/
def execCls (s : State) : Host.Outcome State Fault Refusal := .next (s.setDisp blankDisplay)

/-- The draw of `drw Vx,Vy,n` (R163): `n` sprite bytes from `I`, at row `V[y]` and column `V[x]`. -/
def State.blit (s : State) (x y : RegIdx) (n : Fin 16) : Blit :=
  Blit.rows ⟨s.disp, false⟩ (s.reg y).toNat (s.reg x).toNat (fun k => s.memRead (s.indexAddr k)) n.val

/-- `drw Vx,Vy,n` (R163): the flag write comes last. -/
def execDrw (x y : RegIdx) (n : Fin 16) (s : State) : Host.Outcome State Fault Refusal :=
  .next ((s.setDisp (s.blit x y n).disp).setFlag (flagByte (s.blit x y n).hit))

end Sys2Proof.Machine
end

