-- ==== Sys2Proof/Machine/Index.lean ====
section
/-! DEFINITION. The index register and memory transfers (spec/43_memory_index.md R180 to R186). -/

namespace Sys2Proof.Machine

/-- `ld I,nnn` (R180). -/
def execLdINnn (nnn : Addr) (s : State) : Host.Outcome State Fault Refusal := .next (s.setI (addrImm nnn))

/-- The flag write of `add I,Vx`, where `ADD_I_VF` asks for it (R181, decision D17; log entry 15). -/
def State.setIndexFlag (s : State) (f : Byte) : State :=
  match s.config.addIVf with
  | .carry12 => s.setFlag f
  | .unchanged => s

/-- `add I,Vx` (R181): sum and carry come from the values before any write. -/
def execAddIVx (x : RegIdx) (s : State) : Host.Outcome State Fault Refusal :=
  .next ((s.setI (indexSum s.i (s.reg x))).setIndexFlag (indexCarry s.i (s.reg x)))

/-- `ld F,Vx` (R182). -/
def execLdFVx (x : RegIdx) (s : State) : Host.Outcome State Fault Refusal := .next (s.setI (s.glyphAddr x))

/-- `ld B,Vx` (R183). -/
def execLdBVx (x : RegIdx) (s : State) : Host.Outcome State Fault Refusal :=
  .next (s.storeBytes (s.indexAddr 0) (bcdDigits (s.reg x)))

/-- `ld [I],Vx` (R184): all accesses, then `I`. -/
def execLdMemVx (x : RegIdx) (s : State) : Host.Outcome State Fault Refusal :=
  .next ((s.storeBytes (s.indexAddr 0) (s.regsBelow (x.val + 1))).setI (s.indexAfterBlock x))

/-- `ld Vx,[I]` (R185): all accesses, then `I`. -/
def execLdVxMem (x : RegIdx) (s : State) : Host.Outcome State Fault Refusal :=
  .next ((s.loadRegs (s.indexAddr 0) (x.val + 1)).setI (s.indexAfterBlock x))

end Sys2Proof.Machine
end

