-- ==== Sys2Proof/Machine/TimersKeys.lean ====
section
/-! DEFINITION. Timer and key-wait instructions (spec/44_timers_keys.md R200 to R203). -/

namespace Sys2Proof.Machine

/-- `ld Vx,DT` (R200). -/
def execLdVxDT (x : RegIdx) (s : State) : Host.Outcome State Fault Refusal := .next (s.setReg x s.dt)

/-- `ld DT,Vx` (R201). -/
def execLdDTVx (x : RegIdx) (s : State) : Host.Outcome State Fault Refusal := .next (s.setDt (s.reg x))

/-- `ld ST,Vx` (R202). -/
def execLdSTVx (x : RegIdx) (s : State) : Host.Outcome State Fault Refusal := .next (s.setSt (s.reg x))

/-- `ld Vx,K` (R203): the key-wait begins; a later Step writes `V[x]`. -/
def execLdVxK (x : RegIdx) (s : State) : Host.Outcome State Fault Refusal := .next (s.setWaiting (some x))

end Sys2Proof.Machine
end

