-- ==== Sys2Proof/Machine/Driver.lean ====
section
/-! DEFINITION. The parts of the Step transaction (spec/40_step_driver.md R110 to R116): fetch, advance, the key-wait poll
and its resolution, the unknown-opcode path, and how an instruction comes to stand where the next Step fetches. -/

namespace Sys2Proof.Machine

/-- R113: the opcode at `PC`, big-endian from two bytes, each address masked for itself. -/
def State.fetch (s : State) : Word := wordOfBytes (s.memRead s.pc.toNat) (s.memRead (s.pc.toNat + 1))

/-- R114: `PC <- (PC + 2) & 0xFFF`. -/
def State.advance (s : State) : State := s.setPc (s.pc.toNat + 2)

/-- R111, R112: a Step while the key-wait for `V[w]` is pending. With no key pressed nothing changes; otherwise the lowest
pressed key's number goes to `V[w]` and the wait ends. Neither fetches. -/
def State.pollKey (s : State) (w : RegIdx) : State :=
  match s.firstPressed with
  | none => s
  | some k => (s.setReg w (BitVec.ofNat 8 k.val)).setWaiting none

/-- R113 to R116: one fetch-decode-execute. The meaning runs on the advanced state; an unknown opcode is counted. -/
def State.runFetched (s : State) : Host.Outcome State Fault Refusal :=
  match decode s.fetch with
  | .ok i => exec i s.advance
  | .error _ => .next s.advance.countUnknown

/-- Store a word where the next Step fetches, and let that Step fetch (log entry 22). -/
def State.placeWord (s : State) (w : Word) : State :=
  (s.storeBytes s.pc.toNat [highByte w, lowByte w]).setWaiting none

end Sys2Proof.Machine
end

