-- ==== Sys2Proof/Machine/Step.lean ====
section
/-! DEFINITION. The Step transaction (spec/40_step_driver.md R110). -/

namespace Sys2Proof.Machine

/-- R110: a key-wait poll or its resolution, or one fetch-decode-execute. -/
def step (s : State) : Host.Outcome State Fault Refusal :=
  match s.waitingKey with
  | some w => .next (s.pollKey w)
  | none => s.runFetched

/-- `s` with an opcode-table word stored where the next Step fetches, and no key-wait pending (log entry 22). -/
def State.withFetchWord (s : State) (nbits w : Nat) : State := s.placeWord (tableWord nbits w)

end Sys2Proof.Machine
end

