-- ==== Sys2Proof/Machine/Assembler.lean ====
section
/-! DEFINITION. The assembler syntax (spec/30_encoding.md R89, R90): a mnemonic and its operands, what each spells, and the
canonical spelling of every instruction. Operand numbers are unbounded as written; one that does not fit its field spells
no instruction (R90). -/

namespace Sys2Proof.Machine

/-- The mnemonics of R85. -/
inductive Mnemonic where
  | cls | ret | sys | jp | call | se | sne | ld | add | or | and | xor | sub | shr | subm | shl | rnd | drw | skp | sknp
  deriving DecidableEq, Repr

/-- An operand as written (R89): a register, an immediate of one of the three fields, or a literal keyword. -/
inductive Operand where
  | v (n : Nat)
  | nnn (n : Nat)
  | kk (n : Nat)
  | rows (n : Nat)
  | i | k | dt | st | f | b | atI
  deriving DecidableEq, Repr

/-- A written instruction. -/
structure AsmLine where
  mnemonic : Mnemonic
  operands : List Operand
  deriving DecidableEq, Repr

/-- A register name `V0..VF`. -/
def reg? (n : Nat) : Option RegIdx := if h : n < 16 then some ⟨n, h⟩ else none

/-- A byte immediate, if it fits. -/
def byte? (n : Nat) : Option Byte := if n < 0x100 then some (BitVec.ofNat 8 n) else none

/-- A 12-bit immediate, if it fits. -/
def addr? (n : Nat) : Option Addr := if n < 0x1000 then some (BitVec.ofNat 12 n) else none

/-- An instruction of one register. -/
def asmX (mk : RegIdx → Instr) (x : Nat) : Option Instr := (reg? x).map mk

/-- An instruction of two registers. -/
def asmXY (mk : RegIdx → RegIdx → Instr) (x y : Nat) : Option Instr :=
  (reg? x).bind fun x => (reg? y).map fun y => mk x y

/-- An instruction of a register and a byte. -/
def asmXK (mk : RegIdx → Byte → Instr) (x kk : Nat) : Option Instr :=
  (reg? x).bind fun x => (byte? kk).map fun kk => mk x kk

/-- An instruction of an address. -/
def asmN (mk : Addr → Instr) (nnn : Nat) : Option Instr := (addr? nnn).map mk

/-- What a written instruction spells (R85 mnemonic column, R89, R90). -/
def assemble (a : AsmLine) : Option Instr :=
  match a.mnemonic, a.operands with
  | .cls, [] => some .cls
  | .ret, [] => some .ret
  | .sys, [.nnn n] => (asmN .sys n).filter Instr.wellFormed
  | .jp, [.nnn n] => asmN .jp n
  | .jp, [.v 0, .nnn n] => asmN .jpV0 n
  | .call, [.nnn n] => asmN .call n
  | .se, [.v x, .kk n] => asmXK .seVxKk x n
  | .se, [.v x, .v y] => asmXY .seVxVy x y
  | .sne, [.v x, .kk n] => asmXK .sneVxKk x n
  | .sne, [.v x, .v y] => asmXY .sneVxVy x y
  | .ld, [.v x, .kk n] => asmXK .ldVxKk x n
  | .ld, [.v x, .v y] => asmXY .ldVxVy x y
  | .ld, [.v x, .dt] => asmX .ldVxDT x
  | .ld, [.v x, .k] => asmX .ldVxK x
  | .ld, [.v x, .atI] => asmX .ldVxMem x
  | .ld, [.i, .nnn n] => asmN .ldINnn n
  | .ld, [.dt, .v x] => asmX .ldDTVx x
  | .ld, [.st, .v x] => asmX .ldSTVx x
  | .ld, [.f, .v x] => asmX .ldFVx x
  | .ld, [.b, .v x] => asmX .ldBVx x
  | .ld, [.atI, .v x] => asmX .ldMemVx x
  | .add, [.v x, .kk n] => asmXK .addVxKk x n
  | .add, [.v x, .v y] => asmXY .addVxVy x y
  | .add, [.i, .v x] => asmX .addIVx x
  | .or, [.v x, .v y] => asmXY .orVxVy x y
  | .and, [.v x, .v y] => asmXY .andVxVy x y
  | .xor, [.v x, .v y] => asmXY .xorVxVy x y
  | .sub, [.v x, .v y] => asmXY .subVxVy x y
  | .shr, [.v x, .v y] => asmXY .shrVxVy x y
  | .subm, [.v x, .v y] => asmXY .submVxVy x y
  | .shl, [.v x, .v y] => asmXY .shlVxVy x y
  | .rnd, [.v x, .kk n] => asmXK .rnd x n
  | .drw, [.v x, .v y, .rows n] => (reg? n).bind fun n => asmXY (fun x y => .drw x y n) x y
  | .skp, [.v x] => asmX .skp x
  | .sknp, [.v x] => asmX .sknp x
  | _, _ => none

/-- The canonical spelling of an instruction (R85 mnemonic column, R89). -/
def spell (i : Instr) : AsmLine :=
  match i with
  | .cls => ⟨.cls, []⟩
  | .ret => ⟨.ret, []⟩
  | .sys nnn => ⟨.sys, [.nnn nnn.toNat]⟩
  | .jp nnn => ⟨.jp, [.nnn nnn.toNat]⟩
  | .call nnn => ⟨.call, [.nnn nnn.toNat]⟩
  | .seVxKk x kk => ⟨.se, [.v x, .kk kk.toNat]⟩
  | .sneVxKk x kk => ⟨.sne, [.v x, .kk kk.toNat]⟩
  | .seVxVy x y => ⟨.se, [.v x, .v y]⟩
  | .ldVxKk x kk => ⟨.ld, [.v x, .kk kk.toNat]⟩
  | .addVxKk x kk => ⟨.add, [.v x, .kk kk.toNat]⟩
  | .ldVxVy x y => ⟨.ld, [.v x, .v y]⟩
  | .orVxVy x y => ⟨.or, [.v x, .v y]⟩
  | .andVxVy x y => ⟨.and, [.v x, .v y]⟩
  | .xorVxVy x y => ⟨.xor, [.v x, .v y]⟩
  | .addVxVy x y => ⟨.add, [.v x, .v y]⟩
  | .subVxVy x y => ⟨.sub, [.v x, .v y]⟩
  | .shrVxVy x y => ⟨.shr, [.v x, .v y]⟩
  | .submVxVy x y => ⟨.subm, [.v x, .v y]⟩
  | .shlVxVy x y => ⟨.shl, [.v x, .v y]⟩
  | .sneVxVy x y => ⟨.sne, [.v x, .v y]⟩
  | .ldINnn nnn => ⟨.ld, [.i, .nnn nnn.toNat]⟩
  | .jpV0 nnn => ⟨.jp, [.v 0, .nnn nnn.toNat]⟩
  | .rnd x kk => ⟨.rnd, [.v x, .kk kk.toNat]⟩
  | .drw x y n => ⟨.drw, [.v x, .v y, .rows n]⟩
  | .skp x => ⟨.skp, [.v x]⟩
  | .sknp x => ⟨.sknp, [.v x]⟩
  | .ldVxDT x => ⟨.ld, [.v x, .dt]⟩
  | .ldVxK x => ⟨.ld, [.v x, .k]⟩
  | .ldDTVx x => ⟨.ld, [.dt, .v x]⟩
  | .ldSTVx x => ⟨.ld, [.st, .v x]⟩
  | .addIVx x => ⟨.add, [.i, .v x]⟩
  | .ldFVx x => ⟨.ld, [.f, .v x]⟩
  | .ldBVx x => ⟨.ld, [.b, .v x]⟩
  | .ldMemVx x => ⟨.ld, [.atI, .v x]⟩
  | .ldVxMem x => ⟨.ld, [.v x, .atI]⟩

/-- The text of a mnemonic, in lower case (R89). -/
def Mnemonic.text : Mnemonic → String
  | .cls => "cls" | .ret => "ret" | .sys => "sys" | .jp => "jp" | .call => "call" | .se => "se" | .sne => "sne"
  | .ld => "ld" | .add => "add" | .or => "or" | .and => "and" | .xor => "xor" | .sub => "sub" | .shr => "shr"
  | .subm => "subm" | .shl => "shl" | .rnd => "rnd" | .drw => "drw" | .skp => "skp" | .sknp => "sknp"

/-- One upper-case hex digit. -/
def hexDigit (n : Nat) : String :=
  ["0", "1", "2", "3", "4", "5", "6", "7", "8", "9", "A", "B", "C", "D", "E", "F"].getD (n % 16) "0"

/-- The text of an operand (R89): keywords in upper case; an address in three hex digits, a byte in two, a row count in one,
as the examples of R90 write them (log entry 29). -/
def Operand.text : Operand → String
  | .v n => "V" ++ hexDigit n
  | .nnn n => "0x" ++ hexDigit (n / 256) ++ hexDigit (n / 16) ++ hexDigit n
  | .kk n => "0x" ++ hexDigit (n / 16) ++ hexDigit n
  | .rows n => hexDigit n
  | .i => "I" | .k => "K" | .dt => "DT" | .st => "ST" | .f => "F" | .b => "B" | .atI => "[I]"

/-- The text of a written instruction (R89): mnemonic, a space, operands with commas and no spaces. -/
def AsmLine.text (a : AsmLine) : String :=
  match a.operands with
  | [] => a.mnemonic.text
  | _ => a.mnemonic.text ++ " " ++ ",".intercalate (a.operands.map Operand.text)

end Sys2Proof.Machine
end

