-- ==== Sys2Proof/Machine/Transactions.lean ====
section
/-! DEFINITION. The host's transactions (spec/60_exceptions.md R257 to R263, R268): each is atomic, and they take effect one at a
time in the order the host issues them (decision D9; log entry 18). -/

namespace Sys2Proof.Machine

/-- A counter decremented by 1, floored at 0 (R257). -/
def tickDown (b : Byte) : Byte := if b = 0 then 0 else b - 1

/-- `TickTimers()` (R257). -/
def State.tickTimers (s : State) : State := (s.setDt (tickDown s.dt)).setSt (tickDown s.st)

/-- `SetKey(k, b)` (R260). -/
def State.setKey (s : State) (k : KeyIdx) (b : Bool) : State := { s with keys := s.keys.set k.val b k.isLt }

/-- `Load(off, bytes)` (R262, decision D28; log entry 20). -/
def State.load (s : State) (off : Nat) (bytes : List Byte) : State := s.storeBytes off bytes

/-- `AbortWait()` (R263, decision D23; log entry 19). -/
def State.abortWait (s : State) : State := s.setWaiting none

/-- `Reset()` (R263, R280): the state of creation, for this machine's parameters. The number of random bytes drawn goes
on, so that bytes drawn after it are fresh (log entry 4). -/
def State.resetAgain (s : State) : State := { State.create s.config with draws := s.draws }

/-- `ReadSound()`: `ST != 0` (R259). -/
def State.sound (s : State) : Bool := s.st != 0

/-- Byte `k` of the Renderer's view (R34, decision D8; log entry 25): columns `8 (k mod 8) … + 7` of row `k div 8`, the
leftmost pixel in bit 7. -/
def displayByte (d : Display) (k : Fin 256) : Byte :=
  (d[Fin.ofNat 32 (k.val / 8)]).extractLsb' (56 - 8 * (k.val % 8)) 8

/-- The Renderer's byte view `displayMemory`: 256 bytes, row-major (R34). -/
def displayMemory (d : Display) : List Byte := (List.finRange 256).map (displayByte d)

/-- The transactions of R268. -/
inductive Transaction where
  | step
  | tickTimers
  | setKey (k : KeyIdx) (b : Bool)
  | load (off : Nat) (bytes : List Byte)
  | readDisplay
  | readSound
  | abortWait
  | reset
  deriving DecidableEq, Repr

/-- What a transaction returns to the host (R268). -/
inductive Reply where
  | nothing
  | display (pixels : Display)
  | sound (on : Bool)
  deriving DecidableEq, Repr

/-- A state after a transaction that always has one, and its reply. -/
def replied (s : State) (r : Reply) : Host.Outcome (State × Reply) Fault Refusal := .next (s, r)

/-- R268: one transaction. -/
def transact (tx : Transaction) (s : State) : Host.Outcome (State × Reply) Fault Refusal :=
  match tx with
  | .step =>
    match Sys2Proof.Machine.step s with
    | .next t => replied t .nothing
    | .fault r => .fault r
    | .refused r => .refused r
  | .tickTimers => replied s.tickTimers .nothing
  | .setKey k b => replied (s.setKey k b) .nothing
  | .load off bytes => replied (s.load off bytes) .nothing
  | .readDisplay => replied s (.display s.disp)
  | .readSound => replied s (.sound s.sound)
  | .abortWait => replied s.abortWait .nothing
  | .reset => replied s.resetAgain .nothing

/-- Transactions in the order the host issues them (R70, R253), with their replies in that order. -/
def runHost (txs : List Transaction) (s : State) : Host.Outcome (State × List Reply) Fault Refusal :=
  match txs with
  | [] => .next (s, [])
  | tx :: rest =>
    match transact tx s with
    | .next (t, r) =>
      match runHost rest t with
      | .next (t', rs) => .next (t', r :: rs)
      | .fault e => .fault e
      | .refused e => .refused e
    | .fault e => .fault e
    | .refused e => .refused e

end Sys2Proof.Machine
end

