-- ==== Sys2Proof/Safety.lean ====
section
/-! DEFINITION. The terms claims use: the frame of an instruction, the invariants of the machine, the end of a run, and the
readings of display and stack that the rules of spec/ speak of. -/

namespace Sys2Proof.Machine

/-- The pieces of the State Store (spec/10_state.md R20), as a frame names them. `stack` stands for `SP` and the entries. -/
inductive Part where
  | regs | index | pc | stack | dt | st | keys | disp | waiting | unknown | draws | mem | config
  deriving DecidableEq, Repr

/-- Two states agree on one piece of state. Memory agrees when every address reads the same. -/
def State.Agree (p : Part) (s t : State) : Prop :=
  match p with
  | .regs => ∀ x, t.reg x = s.reg x
  | .index => t.i = s.i
  | .pc => t.pc = s.pc
  | .stack => t.sp = s.sp ∧ t.stack = s.stack
  | .dt => t.dt = s.dt
  | .st => t.st = s.st
  | .keys => t.keys = s.keys
  | .disp => ∀ r c, t.disp.pixel r c = s.disp.pixel r c
  | .waiting => t.waitingKey = s.waitingKey
  | .unknown => t.unknownCount = s.unknownCount
  | .draws => t.draws = s.draws
  | .mem => ∀ a, t.memRead a = s.memRead a
  | .config => t.config = s.config

/-- The frame: `t` agrees with `s` on everything but the named pieces. -/
def State.SameBut (changed : List Part) (s t : State) : Prop := ∀ p, p ∉ changed → State.Agree p s t

/-- Every register but those named is as it was. -/
def State.RegsBut (xs : List RegIdx) (s t : State) : Prop := ∀ z, z ∉ xs → t.reg z = s.reg z

/-- The invariant that every transaction keeps: memory in canonical form, `PC` in `0x000..0xFFF` (R25), `SP` in
`0..STACK_DEPTH-1` (R29). -/
def State.Inv (s : State) : Prop :=
  Memory.wf s.config s.mem = true ∧ s.pc.toNat < 0x1000 ∧ s.sp.val < s.depth

/-- Every stack entry holds a 12-bit PC value (R29). -/
def State.StackOk (s : State) : Prop := ∀ j : Fin 16, (s.stack[j]).toNat < 0x1000

/-- A run has ended (70_reset_and_hazards.md R287, decision D24): no key-wait, and the opcode at `PC` is a jump to `PC`. -/
def State.ended (s : State) : Bool :=
  s.waitingKey.isNone && s.fetch == wordNnn 0x1 (BitVec.ofNat 12 s.pc.toNat)

/-- The sprite bit of row `k`, bit offset `j` from the left (42_display.md R161). -/
def State.spriteBit (s : State) (k j : Nat) : Bool := (s.memRead (s.i.toNat + k)).getLsbD (7 - j)

/-- `drw Vx,Vy,n` reaches pixel `(r, c)` with a 1 bit: some row `k < n` and bit offset `j < 8` land there, both
coordinates wrapped (R160, R163). -/
def State.SpriteHits (s : State) (x y : RegIdx) (n : Nat) (r : Fin 32) (c : Fin 64) : Prop :=
  ∃ k j, k < n ∧ j < 8 ∧ r.val = ((s.reg y).toNat + k) % 32 ∧ c.val = ((s.reg x).toNat + j) % 64 ∧ s.spriteBit k j = true

/-- Push each word of a list in turn. -/
def State.pushAll (s : State) (ws : List Word) : State := ws.foldl State.push s

/-- Pop `n` times, the words in the order they come out. -/
def State.popWords (s : State) (n : Nat) : List Word :=
  match n with
  | 0 => []
  | k + 1 => s.stackTop :: s.pop.popWords k

/-- The same state with other register contents. -/
def State.withRegs (s : State) (v : Vector Byte 16) : State := { s with v := v }

/-- The same state with another `SP` and other stack entries. -/
def State.withStack (s : State) (p : Fin 16) (k : Vector Word 16) : State := { s with sp := p, stack := k }

/-- The same state with `n` more unknown opcodes counted. -/
def State.addUnknown (s : State) (n : Nat) : State := { s with unknownCount := s.unknownCount + n }

/-- Two states differ at most in bits 15..12 of `I` (R28). -/
def State.SameModIndexTop (s t : State) : Prop :=
  s.setI 0 = t.setI 0 ∧ s.i.toNat % 0x1000 = t.i.toNat % 0x1000

end Sys2Proof.Machine

namespace Sys2Proof

open Sys2Proof.Machine (Part)

/-- The registers an instruction writes (the table of 10_state.md R21); the flag register where it writes the flag (R22). -/
def Instr.writes (c : Config) (i : Instr) : List RegIdx :=
  match i with
  | .ldVxKk x _ | .addVxKk x _ | .ldVxVy x _ | .orVxVy x _ | .andVxVy x _ | .xorVxVy x _ | .rnd x _ | .ldVxDT x => [x]
  | .addVxVy x _ | .subVxVy x _ | .shrVxVy x _ | .submVxVy x _ | .shlVxVy x _ => [x, flagReg]
  | .drw _ _ _ => [flagReg]
  | .addIVx _ => if c.addIVf = .carry12 then [flagReg] else []
  | .ldVxMem x => (List.finRange 16).filter (fun z => z ≤ x)
  | .cls | .ret | .sys _ | .jp _ | .call _ | .seVxKk _ _ | .sneVxKk _ _ | .seVxVy _ _ | .sneVxVy _ _ | .ldINnn _
  | .jpV0 _ | .skp _ | .sknp _ | .ldVxK _ | .ldDTVx _ | .ldSTVx _ | .ldFVx _ | .ldBVx _ | .ldMemVx _ => []

/-- The registers an instruction reads (the table of 10_state.md R21). -/
def Instr.reads (i : Instr) : List RegIdx :=
  match i with
  | .addVxKk x _ | .seVxKk x _ | .sneVxKk x _ | .skp x | .sknp x | .ldDTVx x | .ldSTVx x | .ldFVx x | .ldBVx x
  | .addIVx x => [x]
  | .ldVxVy _ y | .shrVxVy _ y | .shlVxVy _ y => [y]
  | .orVxVy x y | .andVxVy x y | .xorVxVy x y | .addVxVy x y | .subVxVy x y | .submVxVy x y | .seVxVy x y
  | .sneVxVy x y | .drw x y _ => [x, y]
  | .jpV0 _ => [0]
  | .ldMemVx x => (List.finRange 16).filter (fun z => z ≤ x)
  | .cls | .ret | .sys _ | .jp _ | .call _ | .ldVxKk _ _ | .ldINnn _ | .rnd _ _ | .ldVxDT _ | .ldVxK _ | .ldVxMem _ => []

/-- The pieces of state an instruction may change once the fetch advance is done: the writers that R22, R25, R27, R30,
R31, R33, R36 (10_state.md) and R64 (20_memory.md) name, taken together. -/
def Instr.parts (i : Instr) : List Part :=
  match i with
  | .sys _ => []
  | .cls => [.disp]
  | .drw _ _ _ => [.regs, .disp]
  | .ret | .call _ => [.pc, .stack]
  | .jp _ | .jpV0 _ | .seVxKk _ _ | .sneVxKk _ _ | .seVxVy _ _ | .sneVxVy _ _ | .skp _ | .sknp _ => [.pc]
  | .ldVxKk _ _ | .addVxKk _ _ | .ldVxVy _ _ | .orVxVy _ _ | .andVxVy _ _ | .xorVxVy _ _ | .addVxVy _ _
  | .subVxVy _ _ | .shrVxVy _ _ | .submVxVy _ _ | .shlVxVy _ _ | .ldVxDT _ => [.regs]
  | .rnd _ _ => [.regs, .draws]
  | .ldINnn _ | .ldFVx _ => [.index]
  | .addIVx _ | .ldVxMem _ => [.regs, .index]
  | .ldBVx _ => [.mem]
  | .ldMemVx _ => [.mem, .index]
  | .ldVxK _ => [.waiting]
  | .ldDTVx _ => [.dt]
  | .ldSTVx _ => [.st]

end Sys2Proof
end

