-- ==== Sys2Proof/Certificates/Slice0/Obligations.lean ====
section
/-! DEFINITION. The statements about the model. Each docstring names the rules of spec/ it rests on, and the spec's own
decisions (D<n>), general-knowledge passages (G<n>) or log entries that it depends on. `exec` runs on the state after the
fetch advance (log entry 23), so a frame that keeps `PC` says it stays the address after the opcode. -/

open Sys2Proof Sys2Proof.Machine

/-! ## Encoding and assembler -/

/-- R85, R90 (general knowledge G1, G10; log entry 6): decoding the encoding of a well-formed instruction gives it back. -/
def Obligations.DecodeEncodeAgree : Prop :=
  ∀ i : Instr, i.wellFormed = true → decode (encode i) = .ok i

/-- R85 (general knowledge G1; log entry 6): a word that decodes is the encoding of the well-formed instruction it
decodes to, so no bit of it is dropped. -/
def Obligations.EncodeDecodeAgree : Prop :=
  ∀ (w : Word) (i : Instr), decode w = .ok i → i.wellFormed = true ∧ encode i = w

/-- R84 with decision D10: the 35 guards are mutually exclusive, so the priority order never decides. -/
def Obligations.OpcodeGuardsDisjoint : Prop :=
  opcodeMap.length = 35 ∧
  opcodeMap.Pairwise (fun a b => ∀ w, ¬ (a.guard (fieldsOf w) = true ∧ b.guard (fieldsOf w) = true))

/-- R86 (derived there from R85): the unknown words are exactly those of its table. -/
def Obligations.UnknownWordsAreExactlyThoseListed : Prop :=
  ∀ w : Word, (∃ e, decode w = .error e) ↔
    ((fieldsOf w).u = 0x5 ∧ (fieldsOf w).p ≠ 0x0) ∨
    ((fieldsOf w).u = 0x8 ∧ (fieldsOf w).p ∈ ([0x8, 0x9, 0xA, 0xB, 0xC, 0xD, 0xF] : List (BitVec 4))) ∨
    ((fieldsOf w).u = 0x9 ∧ (fieldsOf w).p ≠ 0x0) ∨
    ((fieldsOf w).u = 0xE ∧ (fieldsOf w).kk ∉ ([0x9E, 0xA1] : List Byte)) ∨
    ((fieldsOf w).u = 0xF ∧
      (fieldsOf w).kk ∉ ([0x07, 0x0A, 0x15, 0x18, 0x1E, 0x29, 0x33, 0x55, 0x65] : List Byte))

/-- R81: the fields are the bits of the word that its table names, and they overlap as it says: `nnn = x<<8 | kk`,
`kk = y<<4 | p`. -/
def Obligations.FieldsAreBitsOfTheOpcode : Prop :=
  ∀ w : Word,
    (fieldsOf w).u.toNat = w.toNat / 0x1000 ∧
    (fieldsOf w).x.toNat = w.toNat / 0x100 % 0x10 ∧
    (fieldsOf w).y.toNat = w.toNat / 0x10 % 0x10 ∧
    (fieldsOf w).p.toNat = w.toNat % 0x10 ∧
    (fieldsOf w).kk.toNat = w.toNat % 0x100 ∧
    (fieldsOf w).nnn.toNat = w.toNat % 0x1000 ∧
    (fieldsOf w).nnn.toNat = (fieldsOf w).x.toNat <<< 8 ||| (fieldsOf w).kk.toNat ∧
    (fieldsOf w).kk.toNat = (fieldsOf w).y.toNat <<< 4 ||| (fieldsOf w).p.toNat

/-- 95_test_vectors.md section 2.1 and the examples of R90: a few words written out, one or more of each family. -/
def Obligations.WrittenOutWordsDecode : Prop :=
  decode 0xD125 = .ok (.drw 1 2 5) ∧ decode 0x0000 = .ok (.sys 0) ∧ decode 0x00E0 = .ok .cls ∧
  decode 0x00EE = .ok .ret ∧ decode 0x00E1 = .ok (.sys 0x0E1) ∧ decode 0x10E0 = .ok (.jp 0x0E0) ∧
  decode 0x8AB4 = .ok (.addVxVy 0xA 0xB) ∧ decode 0x8344 = .ok (.addVxVy 3 4) ∧
  decode 0x8AB8 = .error (.unknownOpcode 0x8AB8) ∧ decode 0x9120 = .ok (.sneVxVy 1 2) ∧
  decode 0xE09E = .ok (.skp 0) ∧ decode 0xF00A = .ok (.ldVxK 0) ∧ decode 0x672A = .ok (.ldVxKk 7 0x2A) ∧
  decode 0xFF55 = .ok (.ldMemVx 0xF) ∧ decode 0xF090 = .error (.unknownOpcode 0xF090)

/-- R89, R90 (spellings partly general knowledge G3): the canonical spelling of a well-formed instruction assembles to
it, and whatever assembles is well formed: an immediate that does not fit its field spells no instruction. -/
def Obligations.SpellingAssemblesToTheInstruction : Prop :=
  (∀ i : Instr, i.wellFormed = true → assemble (spell i) = some i) ∧
  (∀ (a : AsmLine) (i : Instr), assemble a = some i → i.wellFormed = true ∧ spell i = a)

/-! ## Memory and reset -/

/-- R61: a read sees the last byte written at the same address modulo `& 0xFFF`, and an address is the same byte as its low
12 bits. -/
def Obligations.MemoryReadAfterWriteMasked : Prop :=
  ∀ (s : State) (a b : Nat) (v : Byte),
    (s.memWrite a v).memRead b = (if b &&& 0xFFF = a &&& 0xFFF then v else s.memRead b) ∧
    s.memRead (a &&& 0xFFF) = s.memRead a

/-- The model's canonical form (log entry 7): two memories in that form that read the same are the same data. -/
def Obligations.CanonicalMemoriesWithEqualBytesAreEqual : Prop :=
  ∀ (c : Config) (m m' : Memory), Memory.wf c m = true → Memory.wf c m' = true →
    (∀ a, Memory.read c m a = Memory.read c m' a) → m = m'

/-- R41, R280 (values of decisions D2, D6, D7; log entries 2, 3, 5): the state of creation for any parameters. Glyph `g`
row `k` of the font is at `FONT_BASE + 5 g + k`, every other byte is 0; `V`, `I`, `DT`, `ST` and the stack hold `RESET_REGS`.
That the state carries its parameters and starts with no byte drawn is the model's own choice (log entries 1, 4). -/
def Obligations.CreationInstallsFontAndZeroes : Prop :=
  ∀ c : Config,
    (∀ (g : Fin 16) (k : Fin 5), (State.create c).memRead (c.fontBase.val + 5 * g.val + k.val) = (c.fontData[g])[k]) ∧
    (∀ a, a < 0x1000 → (a < c.fontBase.val ∨ c.fontBase.val + 80 ≤ a) → (State.create c).memRead a = 0) ∧
    (State.create c).pc = 0x200 ∧ (State.create c).sp = 0 ∧ (State.create c).waitingKey = none ∧
    (State.create c).unknownCount = 0 ∧ (∀ k, (State.create c).key k = false) ∧
    (∀ r p, (State.create c).disp.pixel r p = false) ∧
    (∀ x : RegIdx, (State.create c).reg x = c.resetRegs.v[x]) ∧ (State.create c).i = c.resetRegs.i ∧
    (State.create c).dt = c.resetRegs.dt ∧ (State.create c).st = c.resetRegs.st ∧
    (∀ j : Fin 16, (State.create c).stack[j] = c.resetRegs.stack[j]) ∧
    (State.create c).config = c ∧ (State.create c).draws = 0

/-- R41 (values of decision D2, log entries 2, 3): the registers after reset, with the default parameters. -/
def Obligations.ResetRegistersAreZero : Prop :=
  (∀ x, State.reset.reg x = 0) ∧ State.reset.i = 0 ∧ State.reset.pc = 0x200 ∧ State.reset.sp = 0 ∧
  (∀ j : Fin 16, State.reset.stack[j] = 0) ∧ State.reset.dt = 0 ∧ State.reset.st = 0 ∧
  (∀ k, State.reset.key k = false) ∧ State.reset.waitingKey = none ∧ State.reset.unknownCount = 0

/-! ## The Step driver -/

/-- R113, R114: in every state with no key-wait, the fetched word is the two bytes at `PC` and `PC + 1`, each address masked,
big-endian, and the advance is masked; a Step whose word decodes to `i` is `i` run on the advanced state, and one whose word
decodes to nothing advances `PC` the same. -/
def Obligations.StepRunsTheDecodedInstruction : Prop :=
  ∀ s : State, s.waitingKey = none →
    s.fetch.toNat = (s.memRead (s.pc.toNat &&& 0xFFF)).toNat <<< 8 ||| (s.memRead ((s.pc.toNat + 1) &&& 0xFFF)).toNat ∧
    (s.setPc (s.pc.toNat + 2)).pc.toNat = (s.pc.toNat + 2) &&& 0xFFF ∧
    (∀ i, decode s.fetch = .ok i → step s = exec i (s.setPc (s.pc.toNat + 2))) ∧
    (∀ e, decode s.fetch = .error e → ∃ t, step s = .next t ∧ t.pc = (s.setPc (s.pc.toNat + 2)).pc)

/-- R116 with decision D12 (log entry 11): an unknown opcode advances `PC` and counts, and changes nothing else. -/
def Obligations.UnknownOpcodeIsACountedNoOp : Prop :=
  ∀ (s : State) (e : Reject), s.waitingKey = none → decode s.fetch = .error e →
    ∃ t, step s = .next t ∧ t.unknownCount = s.unknownCount + 1 ∧ t.pc.toNat = (s.pc.toNat + 2) % 0x1000 ∧
      State.SameBut [.pc, .unknown] s t

/-- R111: while a key-wait is pending and no key is pressed, Step changes nothing. -/
def Obligations.KeyWaitPollChangesNothing : Prop :=
  ∀ (s : State) (w : RegIdx), s.waitingKey = some w → (∀ k, s.key k = false) → step s = .next s

/-- R112 with decision D13 (log entry 12): the lowest pressed key's number goes to `V[w]`, the wait ends, and the Step
neither fetches nor changes anything else. -/
def Obligations.KeyWaitResolvesToLowestPressedKey : Prop :=
  ∀ (s : State) (w : RegIdx) (k : KeyIdx), s.waitingKey = some w → s.key k = true →
    (∀ j : KeyIdx, j < k → s.key j = false) →
    ∃ t, step s = .next t ∧ (t.reg w).toNat = k.val ∧ t.waitingKey = none ∧ State.RegsBut [w] s t ∧
      State.SameBut [.regs, .waiting] s t

/-- R119: Step is defined on every state and always produces a successor; it never faults and is never refused. -/
def Obligations.StepAlwaysHasASuccessor : Prop :=
  ∀ s : State, ∃ t, step s = .next t

/-- R73 (derived there): the bytes that `ld [I],Vx` stores where `PC` points are the very next opcode. -/
def Obligations.StoredBytesAreTheNextFetch : Prop :=
  ∀ (s : State) (x : RegIdx), 1 ≤ x.val → s.i.toNat % 0x1000 = s.pc.toNat % 0x1000 →
    ∃ t, exec (.ldMemVx x) s = .next t ∧ t.fetch.toNat = (s.reg 0).toNat * 0x100 + (s.reg 1).toNat

/-! ## Invariants and whole-machine rules -/

/-- The state after reset meets the invariants. -/
def Obligations.InvariantHoldsAtReset : Prop :=
  State.reset.Inv ∧ State.reset.StackOk

/-- R25 (decision D3), R29 and the model's canonical memory (log entry 7): every Step keeps the invariants: memory in
canonical form, `PC` below `0x1000`, `SP` below `STACK_DEPTH`, and 12-bit stack entries. -/
def Obligations.StepKeepsTheInvariant : Prop :=
  ∀ s t : State, step s = .next t → (s.Inv → t.Inv) ∧ (s.StackOk → t.StackOk)

/-- R263, R268 with decision D9: every sequence of host transactions runs to its end and keeps the invariant. -/
def Obligations.HostRunsKeepTheInvariant : Prop :=
  ∀ (txs : List Transaction) (s : State), s.Inv →
    ∃ t rs, runHost txs s = .next (t, rs) ∧ t.Inv ∧ rs.length = txs.length ∧ t.config = s.config

/-- R32, R268: no Step changes a key or a parameter. -/
def Obligations.StepNeverChangesKeysOrParameters : Prop :=
  ∀ s t : State, step s = .next t → t.keys = s.keys ∧ t.config = s.config

/-- R118: no path of Step changes `DT` or `ST` except the instructions `ld DT,Vx` and `ld ST,Vx`. -/
def Obligations.TimersChangeOnlyByTimerInstructions : Prop :=
  ∀ s t : State, step s = .next t →
    (t.dt ≠ s.dt → s.waitingKey = none ∧ ∃ x, decode s.fetch = .ok (.ldDTVx x)) ∧
    (t.st ≠ s.st → s.waitingKey = none ∧ ∃ x, decode s.fetch = .ok (.ldSTVx x))

/-- R22, R25, R27, R30, R31, R33, R36 and R64, as a whole: an instruction changes no piece of state but those its rule
names, and none changes the keys, `unknownCount` or the parameters. -/
def Obligations.InstructionsChangeOnlyTheirParts : Prop :=
  ∀ (i : Instr) (s t : State), exec i s = .next t → State.SameBut i.parts s t

/-- R21 (write sets; derived there): an instruction writes no register but those of its row. -/
def Obligations.InstructionsWriteOnlyTheirRegisters : Prop :=
  ∀ (i : Instr) (s t : State), exec i s = .next t → State.RegsBut (i.writes s.config) s t

/-- R21 (read sets; derived there): what an instruction does depends on no register but those of its row. Two states that
differ only in registers it does not read take it to states that differ only in registers, and agree on those it writes. -/
def Obligations.InstructionsReadOnlyTheirRegisters : Prop :=
  ∀ (i : Instr) (s t : State) (v : Vector Byte 16), (∀ z ∈ i.reads, v[z] = s.reg z) → exec i s = .next t →
    ∃ t', exec i (s.withRegs v) = .next t' ∧ t'.withRegs t.v = t ∧ (∀ z ∈ i.writes s.config, t'.reg z = t.reg z)

/-- R30: no instruction but `call` and `ret` reads or writes `SP` or a stack entry: it does the same whatever they hold. -/
def Obligations.StackIsHiddenFromOtherInstructions : Prop :=
  ∀ (i : Instr) (s t : State) (p : Fin 16) (k : Vector Word 16), i ≠ .ret → (∀ nnn, i ≠ .call nnn) →
    exec i s = .next t → t.sp = s.sp ∧ t.stack = s.stack ∧
      exec i (s.withStack p k) = .next (t.withStack p k)

/-- R38 with decision D12: `unknownCount` never goes down in a Step, and has no effect on any other state. -/
def Obligations.UnknownCountAffectsNothingElse : Prop :=
  ∀ (s t : State) (n : Nat), step s = .next t →
    s.unknownCount ≤ t.unknownCount ∧
    (t.unknownCount ≠ s.unknownCount → s.waitingKey = none ∧ ∃ e, decode s.fetch = .error e) ∧
    step (s.addUnknown n) = .next (t.addUnknown n)

/-- R28 (derived there): bits 15..12 of `I` are never observable. Two states that differ at most in them step to states
that differ at most in them. -/
def Obligations.IndexTopBitsAreNeverObservable : Prop :=
  ∀ s s' t : State, State.SameModIndexTop s s' → step s = .next t →
    ∃ t', step s' = .next t' ∧ State.SameModIndexTop t t'

/-! ## Register arithmetic and logic -/

/-- R130, R132, R200 (general knowledge G4): the loads into a register from an immediate, a register and `DT`. -/
def Obligations.LoadsIntoARegister : Prop :=
  ∀ (x y : RegIdx) (kk : Byte) (s : State),
    (∃ t, exec (.ldVxKk x kk) s = .next t ∧ t.reg x = kk ∧ State.RegsBut [x] s t ∧ State.SameBut [.regs] s t) ∧
    (∃ t, exec (.ldVxVy x y) s = .next t ∧ t.reg x = s.reg y ∧ State.RegsBut [x] s t ∧ State.SameBut [.regs] s t) ∧
    (∃ t, exec (.ldVxDT x) s = .next t ∧ t.reg x = s.dt ∧ State.RegsBut [x] s t ∧ State.SameBut [.regs] s t)

/-- R131 (general knowledge G4, decision D14; log entry 13): the sum wraps modulo 256 and no flag is written. -/
def Obligations.AddImmediateWrapsWithoutFlag : Prop :=
  ∀ (x : RegIdx) (kk : Byte) (s : State),
    ∃ t, exec (.addVxKk x kk) s = .next t ∧ (t.reg x).toNat = ((s.reg x).toNat + kk.toNat) % 256 ∧
      State.RegsBut [x] s t ∧ State.SameBut [.regs] s t

/-- R133, R134, R135 (decision D14; log entry 13): the bitwise operations, bit by bit, and no flag. -/
def Obligations.LogicIsBitwiseWithoutFlag : Prop :=
  ∀ (x y : RegIdx) (s : State),
    (∃ t, exec (.orVxVy x y) s = .next t ∧
      (∀ b, (t.reg x).getLsbD b = ((s.reg x).getLsbD b || (s.reg y).getLsbD b)) ∧
      State.RegsBut [x] s t ∧ State.SameBut [.regs] s t) ∧
    (∃ t, exec (.andVxVy x y) s = .next t ∧
      (∀ b, (t.reg x).getLsbD b = ((s.reg x).getLsbD b && (s.reg y).getLsbD b)) ∧
      State.RegsBut [x] s t ∧ State.SameBut [.regs] s t) ∧
    (∃ t, exec (.xorVxVy x y) s = .next t ∧
      (∀ b, (t.reg x).getLsbD b = ((s.reg x).getLsbD b ^^ (s.reg y).getLsbD b)) ∧
      State.RegsBut [x] s t ∧ State.SameBut [.regs] s t)

/-- R136: the sum modulo 256, then the carry in `V[15]`, written last, so that it wins when `x = 15`. -/
def Obligations.AddRegistersSetsCarry : Prop :=
  ∀ (x y : RegIdx) (s : State),
    ∃ t, exec (.addVxVy x y) s = .next t ∧
      (x ≠ 15 → (t.reg x).toNat = ((s.reg x).toNat + (s.reg y).toNat) % 256) ∧
      t.reg 15 = (if (s.reg x).toNat + (s.reg y).toNat > 255 then 1 else 0) ∧
      State.RegsBut [x, 15] s t ∧ State.SameBut [.regs] s t

/-- R137: the difference modulo 256, then NOT-borrow in `V[15]`, written last. -/
def Obligations.SubtractSetsNotBorrow : Prop :=
  ∀ (x y : RegIdx) (s : State),
    ∃ t, exec (.subVxVy x y) s = .next t ∧
      (x ≠ 15 → (t.reg x).toNat = ((s.reg x).toNat + 256 - (s.reg y).toNat) % 256) ∧
      t.reg 15 = (if s.reg x ≥ s.reg y then 1 else 0) ∧
      State.RegsBut [x, 15] s t ∧ State.SameBut [.regs] s t

/-- R139 (encoding and operand order are general knowledge G5; log entry 24): `Vy - Vx`, then NOT-borrow, written last. -/
def Obligations.ReverseSubtractSetsNotBorrow : Prop :=
  ∀ (x y : RegIdx) (s : State),
    ∃ t, exec (.submVxVy x y) s = .next t ∧
      (x ≠ 15 → (t.reg x).toNat = ((s.reg y).toNat + 256 - (s.reg x).toNat) % 256) ∧
      t.reg 15 = (if s.reg y ≥ s.reg x then 1 else 0) ∧
      State.RegsBut [x, 15] s t ∧ State.SameBut [.regs] s t

/-- R138, R140: the shifts by one of `Vy` into `Vx`, then the bit shifted out in `V[15]`, written last. -/
def Obligations.ShiftsTakeVyAndSetTheBitShiftedOut : Prop :=
  ∀ (x y : RegIdx) (s : State),
    (∃ t, exec (.shrVxVy x y) s = .next t ∧
      (x ≠ 15 → (t.reg x).toNat = (s.reg y).toNat / 2) ∧ (t.reg 15).toNat = (s.reg y).toNat % 2 ∧
      State.RegsBut [x, 15] s t ∧ State.SameBut [.regs] s t) ∧
    (∃ t, exec (.shlVxVy x y) s = .next t ∧
      (x ≠ 15 → (t.reg x).toNat = (s.reg y).toNat * 2 % 256) ∧ (t.reg 15).toNat = (s.reg y).toNat / 128 ∧
      State.RegsBut [x, 15] s t ∧ State.SameBut [.regs] s t)

/-- R141 with decision D15 (log entry 4): `V[x]` gets a fresh random byte, a FREE VALUE, ANDed with `kk`; the next `rnd`
draws another. It says nothing of which byte that is. -/
def Obligations.RandomByteIsMaskedByImmediate : Prop :=
  ∀ (x : RegIdx) (kk : Byte) (s : State),
    ∃ t, exec (.rnd x kk) s = .next t ∧
      (∀ b, (t.reg x).getLsbD b = ((Config.randomByte s.draws).getLsbD b && kk.getLsbD b)) ∧
      t.draws = s.draws + 1 ∧ State.RegsBut [x] s t ∧ State.SameBut [.regs, .draws] s t

/-! ## Display -/

/-- R162 (general knowledge G4): every pixel off, and nothing else changes: no flag, no memory. -/
def Obligations.ClearScreenTurnsEveryPixelOff : Prop :=
  ∀ s : State, ∃ t, exec .cls s = .next t ∧ (∀ r c, t.disp.pixel r c = false) ∧ State.SameBut [.disp] s t

/-- R163 with R160 and decision D16 (log entry 14): the pixels a 1 bit of the sprite reaches, wrapped each for itself, are
turned over and no other; `V[15]` is 1 exactly when one of them was on; nothing else changes. -/
def Obligations.DrawXorsTheSpriteAndFlagsCollision : Prop :=
  ∀ (x y : RegIdx) (n : Fin 16) (s : State),
    ∃ t, exec (.drw x y n) s = .next t ∧
      (∀ r c, s.SpriteHits x y n.val r c → t.disp.pixel r c = !s.disp.pixel r c) ∧
      (∀ r c, ¬ s.SpriteHits x y n.val r c → t.disp.pixel r c = s.disp.pixel r c) ∧
      ((∃ r c, s.SpriteHits x y n.val r c ∧ s.disp.pixel r c = true) → t.reg 15 = 1) ∧
      ((¬ ∃ r c, s.SpriteHits x y n.val r c ∧ s.disp.pixel r c = true) → t.reg 15 = 0) ∧
      State.RegsBut [15] s t ∧ State.SameBut [.regs, .disp] s t

/-- R164 (derived there; log entry 28): drawing the same sprite twice at the same place restores the display; the second
draw reports 1 exactly when some sprite pixel was off at the start. -/
def Obligations.DrawingTwiceRestoresTheDisplay : Prop :=
  ∀ (x y : RegIdx) (n : Fin 16) (s t : State), exec (.drw x y n) s = .next t →
    t.reg x = s.reg x → t.reg y = s.reg y →
    ∃ u, exec (.drw x y n) t = .next u ∧ u.disp = s.disp ∧
      (u.reg 15 = 1 ↔ ∃ r c, s.SpriteHits x y n.val r c ∧ s.disp.pixel r c = false)

/-! ## Memory and index -/

/-- R180, R182 (general knowledge G4, decisions D6, D18; log entries 2, 16): `ld I,nnn` and `ld F,Vx`. -/
def Obligations.IndexLoads : Prop :=
  ∀ (nnn : Addr) (x : RegIdx) (s : State),
    (∃ t, exec (.ldINnn nnn) s = .next t ∧ t.i.toNat = nnn.toNat ∧ State.SameBut [.index] s t) ∧
    (∃ t, exec (.ldFVx x) s = .next t ∧ t.i.toNat = s.config.fontBase.val + 5 * ((s.reg x).toNat &&& 0xF) ∧
      State.SameBut [.index] s t)

/-- R181 with decision D17 (log entry 15): the sum, and under `carry12` the carry out of the 12-bit space in `V[15]`;
under `unchanged` no register is written. -/
def Obligations.AddToIndexWithItsFlagParameter : Prop :=
  ∀ (x : RegIdx) (s : State),
    ∃ t, exec (.addIVx x) s = .next t ∧ t.i.toNat = (s.i.toNat &&& 0xFFF) + (s.reg x).toNat ∧
      (s.config.addIVf = .carry12 →
        t.reg 15 = (if (s.i.toNat &&& 0xFFF) + (s.reg x).toNat > 0xFFF then 1 else 0) ∧ State.RegsBut [15] s t) ∧
      (s.config.addIVf = .unchanged → State.RegsBut [] s t) ∧
      State.SameBut [.regs, .index] s t

/-- R183: the three decimal digits at `I`, `I+1`, `I+2`, each address masked; every other byte and all else unchanged. -/
def Obligations.BcdStoresThreeDigits : Prop :=
  ∀ (x : RegIdx) (s : State),
    ∃ t, exec (.ldBVx x) s = .next t ∧
      (t.memRead (s.indexAddr 0)).toNat = (s.reg x).toNat / 100 ∧
      (t.memRead (s.indexAddr 1)).toNat = (s.reg x).toNat / 10 % 10 ∧
      (t.memRead (s.indexAddr 2)).toNat = (s.reg x).toNat % 10 ∧
      (∀ a, (∀ k, k < 3 → mask12 a ≠ mask12 (s.indexAddr k)) → t.memRead a = s.memRead a) ∧
      State.SameBut [.mem] s t

/-- R184 with decision D19 (log entry 17): `V[0..x]` to `I..I+x`, each address masked; every other byte unchanged; `I`
past the block when `LDST_INCREMENTS_I`, else as it was. -/
def Obligations.BlockStoreWritesRegistersToMemory : Prop :=
  ∀ (x : RegIdx) (s : State),
    ∃ t, exec (.ldMemVx x) s = .next t ∧
      (∀ k : RegIdx, k ≤ x → t.memRead (s.indexAddr k.val) = s.reg k) ∧
      (∀ a, (∀ k : RegIdx, k ≤ x → mask12 a ≠ mask12 (s.indexAddr k.val)) → t.memRead a = s.memRead a) ∧
      (s.config.ldstIncrementsI = true → t.i.toNat = (s.i.toNat + x.val + 1) % 2 ^ 16) ∧
      (s.config.ldstIncrementsI = false → t.i = s.i) ∧
      State.SameBut [.mem, .index] s t

/-- R185 with decision D19 (log entry 17): `V[0..x]` from `I..I+x`, each address masked; no other register; `I` as in
the store. With `x = 15`, `VF` is loaded like any register. -/
def Obligations.BlockLoadReadsRegistersFromMemory : Prop :=
  ∀ (x : RegIdx) (s : State),
    ∃ t, exec (.ldVxMem x) s = .next t ∧
      (∀ k : RegIdx, k ≤ x → t.reg k = s.memRead (s.indexAddr k.val)) ∧
      (∀ k : RegIdx, x < k → t.reg k = s.reg k) ∧
      (s.config.ldstIncrementsI = true → t.i.toNat = (s.i.toNat + x.val + 1) % 2 ^ 16) ∧
      (s.config.ldstIncrementsI = false → t.i = s.i) ∧
      State.SameBut [.regs, .index] s t

/-! ## Timers and keys -/

/-- R201, R202 (general knowledge G4): setting the timers. -/
def Obligations.TimersAreSetFromARegister : Prop :=
  ∀ (x : RegIdx) (s : State),
    (∃ t, exec (.ldDTVx x) s = .next t ∧ t.dt = s.reg x ∧ State.SameBut [.dt] s t) ∧
    (∃ t, exec (.ldSTVx x) s = .next t ∧ t.st = s.reg x ∧ (t.sound = true ↔ s.reg x ≠ 0) ∧ State.SameBut [.st] s t)

/-- R203: the key-wait begins; no register is written by this Step. -/
def Obligations.KeyWaitBegins : Prop :=
  ∀ (x : RegIdx) (s : State),
    ∃ t, exec (.ldVxK x) s = .next t ∧ t.waitingKey = some x ∧ State.SameBut [.waiting] s t

/-! ## Control flow -/

/-- R221 with decision D11 (log entry 10): `sys` changes nothing, and is not counted as unknown. -/
def Obligations.SysChangesNothing : Prop :=
  ∀ (nnn : Addr) (s : State), ∃ t, exec (.sys nnn) s = .next t ∧ State.SameBut [] s t

/-- R223 (general knowledge G4), R229: `jp nnn` and `jp V0,nnn`, whose sum is stored masked. -/
def Obligations.JumpsSetTheProgramCounter : Prop :=
  ∀ (nnn : Addr) (s : State),
    (∃ t, exec (.jp nnn) s = .next t ∧ t.pc.toNat = nnn.toNat ∧ State.SameBut [.pc] s t) ∧
    (∃ t, exec (.jpV0 nnn) s = .next t ∧ t.pc.toNat = (nnn.toNat + (s.reg 0).toNat) &&& 0xFFF ∧
      State.SameBut [.pc] s t)

/-- R224 with R29 (decision D4; log entry 9): the address after the call goes on top of the stack, one entry up, and no
other entry changes; `PC` is the target. -/
def Obligations.CallPushesTheReturnAddress : Prop :=
  ∀ (nnn : Addr) (s : State),
    ∃ t, exec (.call nnn) s = .next t ∧ t.pc.toNat = nnn.toNat ∧ t.sp.val = (s.sp.val + 1) % s.depth ∧
      t.stack[t.sp] = s.pc ∧ (∀ j : Fin 16, j ≠ t.sp → t.stack[j] = s.stack[j]) ∧ State.SameBut [.pc, .stack] s t

/-- R222 with R29 (decision D4; log entry 9): `PC` is the top entry, masked; `SP` goes one down modulo the depth, from 0 to
`STACK_DEPTH - 1`; no entry changes. There is no underflow. -/
def Obligations.ReturnPopsIntoTheProgramCounter : Prop :=
  ∀ s : State,
    ∃ t, exec .ret s = .next t ∧ t.pc.toNat = (s.stack[s.sp]).toNat % 0x1000 ∧
      (s.sp.val = 0 → t.sp.val = s.depth - 1) ∧
      (0 < s.sp.val → s.sp.val < s.depth → t.sp.val = s.sp.val - 1) ∧
      t.stack = s.stack ∧ State.SameBut [.pc, .stack] s t

/-- The source's call and return property (R222 example, 95_test_vectors.md W5): `ret` after `call` gives back the `PC`
that the call held after its own fetch advance, and `SP`. -/
def Obligations.ReturnAfterCallRestoresTheProgramCounter : Prop :=
  ∀ (nnn : Addr) (s : State), s.Inv →
    ∃ t u, exec (.call nnn) s = .next t ∧ exec .ret t = .next u ∧ u.pc = s.pc ∧ u.sp = s.sp

/-- R30 with R29 (decision D4; log entry 9): up to `STACK_DEPTH` pushes come back in reverse order; as many pushes as the
depth bring `SP` back to where it was, so that the next one overwrites the oldest entry. -/
def Obligations.StackIsLastInFirstOutToItsDepth : Prop :=
  ∀ (s : State) (ws : List Word), s.sp.val < s.depth → ws.length ≤ s.depth →
    (s.pushAll ws).popWords ws.length = ws.reverse ∧ (ws.length = s.depth → (s.pushAll ws).sp = s.sp)

/-- R220, R225 to R228 (general knowledge G4): the skips on a comparison add 2 to `PC`, masked, when it holds, and change
nothing when it does not. -/
def Obligations.CompareSkipsSkipOneInstruction : Prop :=
  ∀ (x y : RegIdx) (kk : Byte) (s : State),
    (∃ t, exec (.seVxKk x kk) s = .next t ∧ State.SameBut [.pc] s t ∧
      (s.reg x = kk → t.pc.toNat = (s.pc.toNat + 2) &&& 0xFFF) ∧ (s.reg x ≠ kk → t.pc = s.pc)) ∧
    (∃ t, exec (.sneVxKk x kk) s = .next t ∧ State.SameBut [.pc] s t ∧
      (s.reg x ≠ kk → t.pc.toNat = (s.pc.toNat + 2) &&& 0xFFF) ∧ (s.reg x = kk → t.pc = s.pc)) ∧
    (∃ t, exec (.seVxVy x y) s = .next t ∧ State.SameBut [.pc] s t ∧
      (s.reg x = s.reg y → t.pc.toNat = (s.pc.toNat + 2) &&& 0xFFF) ∧ (s.reg x ≠ s.reg y → t.pc = s.pc)) ∧
    (∃ t, exec (.sneVxVy x y) s = .next t ∧ State.SameBut [.pc] s t ∧
      (s.reg x ≠ s.reg y → t.pc.toNat = (s.pc.toNat + 2) &&& 0xFFF) ∧ (s.reg x = s.reg y → t.pc = s.pc))

/-- R220, R230, R231 with decision D20 (log entry 16): the skips on the key numbered `V[x] & 0xF`. -/
def Obligations.KeySkipsTestTheLowNibblesKey : Prop :=
  ∀ (x : RegIdx) (k : KeyIdx) (s : State), k.val = (s.reg x).toNat &&& 0xF →
    (∃ t, exec (.skp x) s = .next t ∧ State.SameBut [.pc] s t ∧
      (s.key k = true → t.pc.toNat = (s.pc.toNat + 2) &&& 0xFFF) ∧ (s.key k = false → t.pc = s.pc)) ∧
    (∃ t, exec (.sknp x) s = .next t ∧ State.SameBut [.pc] s t ∧
      (s.key k = false → t.pc.toNat = (s.pc.toNat + 2) &&& 0xFFF) ∧ (s.key k = true → t.pc = s.pc))

/-! ## Host transactions and the end of a run -/

/-- R257: TickTimers takes 1 from each timer that is not 0, and changes nothing else. -/
def Obligations.TickTimersCountsDownToZero : Prop :=
  ∀ s : State, ∃ t, transact .tickTimers s = .next (t, .nothing) ∧
    t.dt.toNat = s.dt.toNat - 1 ∧ t.st.toNat = s.st.toNat - 1 ∧ State.SameBut [.dt, .st] s t

/-- R260: SetKey sets the one key and changes nothing else. -/
def Obligations.SetKeySetsOneKey : Prop :=
  ∀ (k : KeyIdx) (b : Bool) (s : State), ∃ t, transact (.setKey k b) s = .next (t, .nothing) ∧
    t.key k = b ∧ (∀ j, j ≠ k → t.key j = s.key j) ∧ State.SameBut [.keys] s t

/-- R262 with decision D28 (log entry 20): Load stores its bytes at `off + k`, each address masked, and changes nothing
else; where a load wraps over itself the last byte stays. -/
def Obligations.LoadStoresEachByteMasked : Prop :=
  ∀ (off : Nat) (bytes : List Byte) (s : State), ∃ t, transact (.load off bytes) s = .next (t, .nothing) ∧
    (∀ k, (h : k < bytes.length) → bytes.length ≤ k + 0x1000 → t.memRead (off + k) = bytes[k]) ∧
    (∀ a, (∀ k, k < bytes.length → mask12 a ≠ mask12 (off + k)) → t.memRead a = s.memRead a) ∧
    State.SameBut [.mem] s t

/-- R263 with decisions D2, D23 (log entries 3, 4, 19): AbortWait ends the wait and changes nothing else; Reset gives the
state of creation for the same parameters, with the count of random draws going on. -/
def Obligations.AbortWaitAndResetTransactions : Prop :=
  ∀ s : State,
    (∃ t, transact .abortWait s = .next (t, .nothing) ∧ t.waitingKey = none ∧ State.SameBut [.waiting] s t) ∧
    (∃ t, transact .reset s = .next (t, .nothing) ∧ State.SameBut [.draws] (State.create s.config) t ∧
      t.mem = [] ∧ t.draws = s.draws)

/-- R259, R261 with R34 (decision D8; log entry 25): the reads change no state; sound is `ST != 0`; the display read is the
pixels, and pixel `(r, c)` is bit `7 - (c mod 8)` of byte `8 r + c div 8` of the byte view. -/
def Obligations.ReadTransactionsReportDisplayAndSound : Prop :=
  ∀ s : State,
    (∃ b, transact .readSound s = .next (s, .sound b) ∧ (b = true ↔ s.st ≠ 0)) ∧
    transact .readDisplay s = .next (s, .display s.disp) ∧
    (∀ (r : Fin 32) (c : Fin 64) (k : Fin 256), k.val = 8 * r.val + c.val / 8 →
      (displayByte s.disp k).getLsbD (7 - c.val % 8) = s.disp.pixel r c)

/-- R287 with decision D24 (log entry 26): in a state that has ended, with `PC` in its range (R25), a Step changes nothing. -/
def Obligations.EndedStateStepsToItself : Prop :=
  ∀ s : State, s.ended = true → s.pc.toNat < 0x1000 → step s = .next s
end

