-- ==== Sys2Proof/Laws/Decode.lean ====
section
/-! SUPPORT. The fields of a word built from fields (spec/30_encoding.md R81, R90), and the bytes of a word (R62). -/

namespace Sys2Proof

@[simp] theorem nibble_ofNibble (n : Fin 16) : nibble (ofNibble n) = n := rfl

@[simp] theorem ofNibble_nibble (b : BitVec 4) : ofNibble (nibble b) = b := rfl

/-! ### Pattern `unnn` -/

@[simp] theorem fieldsOf_wordNnn_u (u : BitVec 4) (nnn : Addr) : (fieldsOf (wordNnn u nnn)).u = u := by
  ext j hj
  simp only [fieldsOf, wordNnn, BitVec.getElem_extractLsb', BitVec.getLsbD_append]
  simp [BitVec.getLsbD_eq_getElem, hj]

@[simp] theorem fieldsOf_wordNnn_nnn (u : BitVec 4) (nnn : Addr) : (fieldsOf (wordNnn u nnn)).nnn = nnn := by
  ext j hj
  simp only [fieldsOf, wordNnn, BitVec.getElem_extractLsb', BitVec.getLsbD_append]
  simp [BitVec.getLsbD_eq_getElem, hj]

/-! ### Pattern `uxkk` -/

@[simp] theorem fieldsOf_wordXkk_u (u : BitVec 4) (x : RegIdx) (kk : Byte) : (fieldsOf (wordXkk u x kk)).u = u := by
  ext j hj
  simp only [fieldsOf, wordXkk, BitVec.getElem_extractLsb', BitVec.getLsbD_append]
  simp [BitVec.getLsbD_eq_getElem, hj]

@[simp] theorem fieldsOf_wordXkk_x (u : BitVec 4) (x : RegIdx) (kk : Byte) :
    (fieldsOf (wordXkk u x kk)).x = ofNibble x := by
  ext j hj
  simp only [fieldsOf, wordXkk, BitVec.getElem_extractLsb', BitVec.getLsbD_append]
  simp [BitVec.getLsbD_eq_getElem, hj, show 8 + j < 12 by omega]

@[simp] theorem fieldsOf_wordXkk_kk (u : BitVec 4) (x : RegIdx) (kk : Byte) : (fieldsOf (wordXkk u x kk)).kk = kk := by
  ext j hj
  simp only [fieldsOf, wordXkk, BitVec.getElem_extractLsb', BitVec.getLsbD_append]
  simp [BitVec.getLsbD_eq_getElem, hj, show j < 12 by omega]

/-! ### Pattern `uxyp` -/

@[simp] theorem fieldsOf_wordXyp_u (u : BitVec 4) (x y : RegIdx) (p : BitVec 4) :
    (fieldsOf (wordXyp u x y p)).u = u := by
  ext j hj
  simp only [fieldsOf, wordXyp, BitVec.getElem_extractLsb', BitVec.getLsbD_append]
  simp [BitVec.getLsbD_eq_getElem, hj]

@[simp] theorem fieldsOf_wordXyp_x (u : BitVec 4) (x y : RegIdx) (p : BitVec 4) :
    (fieldsOf (wordXyp u x y p)).x = ofNibble x := by
  ext j hj
  simp only [fieldsOf, wordXyp, BitVec.getElem_extractLsb', BitVec.getLsbD_append]
  simp [BitVec.getLsbD_eq_getElem, hj, show 8 + j < 12 by omega]

@[simp] theorem fieldsOf_wordXyp_y (u : BitVec 4) (x y : RegIdx) (p : BitVec 4) :
    (fieldsOf (wordXyp u x y p)).y = ofNibble y := by
  ext j hj
  simp only [fieldsOf, wordXyp, BitVec.getElem_extractLsb', BitVec.getLsbD_append]
  simp [BitVec.getLsbD_eq_getElem, hj, show 4 + j < 12 by omega, show 4 + j < 8 by omega]

@[simp] theorem fieldsOf_wordXyp_p (u : BitVec 4) (x y : RegIdx) (p : BitVec 4) :
    (fieldsOf (wordXyp u x y p)).p = p := by
  ext j hj
  simp only [fieldsOf, wordXyp, BitVec.getElem_extractLsb', BitVec.getLsbD_append]
  simp [BitVec.getLsbD_eq_getElem, hj, show j < 12 by omega, show j < 8 by omega]

/-! ### A word from its own fields -/

theorem wordNnn_fieldsOf (w : Word) : wordNnn (fieldsOf w).u (fieldsOf w).nnn = w := by
  apply BitVec.eq_of_getLsbD_eq
  intro j hj
  simp only [wordNnn, fieldsOf, BitVec.getLsbD_append, BitVec.getLsbD_extractLsb']
  split
  · simp_all
  · rw [show 12 + (j - 12) = j by omega, decide_eq_true (by omega : j - 12 < 4), Bool.true_and]

theorem wordXkk_fieldsOf (w : Word) : wordXkk (fieldsOf w).u (nibble (fieldsOf w).x) (fieldsOf w).kk = w := by
  apply BitVec.eq_of_getLsbD_eq
  intro j hj
  simp only [wordXkk, fieldsOf, ofNibble_nibble, BitVec.getLsbD_append, BitVec.getLsbD_extractLsb']
  split
  · split
    · simp_all
    · rw [show 8 + (j - 8) = j by omega, decide_eq_true (by omega : j - 8 < 4), Bool.true_and]
  · rw [show 12 + (j - 12) = j by omega, decide_eq_true (by omega : j - 12 < 4), Bool.true_and]

theorem wordXyp_fieldsOf (w : Word) :
    wordXyp (fieldsOf w).u (nibble (fieldsOf w).x) (nibble (fieldsOf w).y) (fieldsOf w).p = w := by
  apply BitVec.eq_of_getLsbD_eq
  intro j hj
  simp only [wordXyp, fieldsOf, ofNibble_nibble, BitVec.getLsbD_append, BitVec.getLsbD_extractLsb']
  split
  · split
    · split
      · simp_all
      · rw [show 4 + (j - 4) = j by omega, decide_eq_true (by omega : j - 4 < 4), Bool.true_and]
    · rw [show 8 + (j - 8) = j by omega, decide_eq_true (by omega : j - 8 < 4), Bool.true_and]
  · rw [show 12 + (j - 12) = j by omega, decide_eq_true (by omega : j - 12 < 4), Bool.true_and]

/-! ### Bytes (R62) -/

@[simp] theorem wordOfBytes_highByte_lowByte (w : Word) : wordOfBytes (highByte w) (lowByte w) = w := by
  apply BitVec.eq_of_getLsbD_eq
  intro j hj
  simp only [wordOfBytes, highByte, lowByte, BitVec.getLsbD_append, BitVec.getLsbD_extractLsb']
  split
  · simp_all
  · rw [show 8 + (j - 8) = j by omega, decide_eq_true (by omega : j - 8 < 8), Bool.true_and]

end Sys2Proof
end

