-- ==== Sys2Proof/Laws/Display.lean ====
section
/-! SUPPORT. What toggling and plotting a pixel, and drawing the bits and the rows of a sprite do (spec/42_display.md R160,
R163). -/

namespace Sys2Proof.Machine

/-- R163: toggling turns one pixel over and leaves every other alone. -/
theorem Display.pixel_toggle (d : Display) (r r' : Fin 32) (c c' : Fin 64) :
    (d.toggle r c).pixel r' c' = if r' = r ∧ c' = c then !d.pixel r c else d.pixel r' c' := by
  by_cases h : r' = r
  · subst h
    have hcc : 63 - c.val = 63 - c'.val ↔ c' = c := by rw [Fin.ext_iff]; omega
    simp only [Display.pixel, Display.toggle, Fin.getElem_fin, Vector.getElem_set_self, BitVec.getLsbD_xor,
      BitVec.getLsbD_twoPow, hcc, true_and]
    by_cases hc : c' = c
    · subst hc
      simp [show 63 - c'.val < 64 by omega]
    · simp [hc]
  · have hne : r.val ≠ r'.val := fun he => h (Fin.ext he.symm)
    simp [Display.pixel, Display.toggle, h, hne]

/-- R163: a plotted 1 bit toggles its pixel; a 0 bit changes none. -/
theorem Blit.pixel_plot (b : Blit) (r r' : Fin 32) (c c' : Fin 64) (bit : Bool) :
    (b.plot r c bit).disp.pixel r' c' =
      if r' = r ∧ c' = c then b.disp.pixel r' c' ^^ bit else b.disp.pixel r' c' := by
  cases bit
  · simp [Blit.plot]
  · simp only [Blit.plot, if_true, Display.pixel_toggle]
    split
    · rename_i h
      rw [h.1, h.2, Bool.xor_true]
    · rfl

/-- R163: a plot collides when the bit and its pixel are both 1. -/
theorem Blit.hit_plot (b : Blit) (r : Fin 32) (c : Fin 64) (bit : Bool) :
    (b.plot r c bit).hit = (b.hit || (bit && b.disp.pixel r c)) := by
  cases bit <;> simp [Blit.plot]

/-- R162: every pixel of the blank display is off. -/
@[simp] theorem pixel_blankDisplay (r : Fin 32) (c : Fin 64) : blankDisplay.pixel r c = false := by
  simp [Display.pixel, blankDisplay]

/-- Two displays with the same pixels are the same display. -/
theorem Display.ext_pixel {d e : Display} (h : ∀ r c, d.pixel r c = e.pixel r c) : d = e := by
  apply Vector.ext
  intro r hr
  apply BitVec.eq_of_getLsbD_eq
  intro j hj
  have := h ⟨r, hr⟩ ⟨63 - j, by omega⟩
  simpa [Display.pixel, show 63 - (63 - j) = j by omega] using this

/-! ### One sprite row -/

/-- R160, R161: one of the leftmost `n` bits of `sprite`, drawn from column `col` of row `r`, is 1 and lands on `(r', c')`. -/
def BitsHit (r : Fin 32) (col : Nat) (sprite : Byte) (n : Nat) (r' : Fin 32) (c' : Fin 64) : Prop :=
  r' = r ∧ ∃ j, j < n ∧ c'.val = (col + j) % 64 ∧ sprite.getLsbD (7 - j) = true

/-- One more bit: the pixels hit are those already hit, and the new bit's pixel if that bit is 1. -/
theorem bitsHit_succ (r : Fin 32) (col : Nat) (sprite : Byte) (n : Nat) (r' : Fin 32) (c' : Fin 64) :
    BitsHit r col sprite (n + 1) r' c' ↔
      BitsHit r col sprite n r' c' ∨ (r' = r ∧ c' = Fin.ofNat 64 (col + n)) ∧ sprite.getLsbD (7 - n) = true := by
  constructor
  · rintro ⟨hr, j, hj, hc, hb⟩
    by_cases hjn : j = n
    · subst hjn
      exact .inr ⟨⟨hr, Fin.ext hc⟩, hb⟩
    · exact .inl ⟨hr, j, by omega, hc, hb⟩
  · rintro (⟨hr, j, hj, h⟩ | ⟨⟨hr, rfl⟩, hb⟩)
    · exact ⟨hr, j, by omega, h⟩
    · exact ⟨hr, n, by omega, rfl, hb⟩

/-- The eight columns of a sprite row are distinct, so a bit's pixel is not one an earlier bit of the row hit. -/
theorem not_bitsHit_column (r : Fin 32) (col : Nat) (sprite : Byte) {n : Nat} (hn : n < 64) (r' : Fin 32) :
    ¬ BitsHit r col sprite n r' (Fin.ofNat 64 (col + n)) := by
  rintro ⟨_, j, hj, hc, _⟩
  have hc : (col + n) % 64 = (col + j) % 64 := hc
  omega

/-- R163: drawing the bits of a sprite row turns over the pixels they hit, and no other. -/
theorem Blit.pixel_bits (b : Blit) (r : Fin 32) (col : Nat) (sprite : Byte) (n : Nat) (hn : n ≤ 8) (r' : Fin 32)
    (c' : Fin 64) :
    (BitsHit r col sprite n r' c' → (b.bits r col sprite n).disp.pixel r' c' = !b.disp.pixel r' c') ∧
    (¬ BitsHit r col sprite n r' c' → (b.bits r col sprite n).disp.pixel r' c' = b.disp.pixel r' c') := by
  induction n with
  | zero => simp [BitsHit, Blit.bits]
  | succ n ih =>
    obtain ⟨ih1, ih2⟩ := ih (by omega)
    simp only [Blit.bits, Blit.pixel_plot, bitsHit_succ]
    by_cases hc : r' = r ∧ c' = Fin.ofNat 64 (col + n)
    · have hno : ¬ BitsHit r col sprite n r' c' := hc.2 ▸ not_bitsHit_column r col sprite (by omega) r'
      rw [if_pos hc, ih2 hno]
      simp only [eq_true hc, eq_false hno, false_or, true_and]
      cases sprite.getLsbD (7 - n) <;> simp
    · simp only [hc, if_false, false_and, or_false]
      exact ⟨ih1, ih2⟩

/-- R163: drawing the bits of a sprite row collides when they hit a lit pixel. -/
theorem Blit.hit_bits (b : Blit) (r : Fin 32) (col : Nat) (sprite : Byte) (n : Nat) (hn : n ≤ 8) :
    (b.bits r col sprite n).hit = true ↔
      b.hit = true ∨ ∃ r' c', BitsHit r col sprite n r' c' ∧ b.disp.pixel r' c' = true := by
  induction n with
  | zero => simp [BitsHit, Blit.bits]
  | succ n ih =>
    have hp := (b.pixel_bits r col sprite n (by omega) r (Fin.ofNat 64 (col + n))).2
      (not_bitsHit_column r col sprite (by omega) r)
    simp only [Blit.bits, Blit.hit_plot, Bool.or_eq_true, Bool.and_eq_true, ih (by omega), hp, bitsHit_succ]
    constructor
    · rintro ((h | ⟨r', c', h, hl⟩) | ⟨hb, hl⟩)
      · exact .inl h
      · exact .inr ⟨r', c', .inl h, hl⟩
      · exact .inr ⟨r, _, .inr ⟨⟨rfl, rfl⟩, hb⟩, hl⟩
    · rintro (h | ⟨r', c', h | ⟨⟨rfl, rfl⟩, hb⟩, hl⟩)
      · exact .inl (.inl h)
      · exact .inl (.inr ⟨r', c', h, hl⟩)
      · exact .inr ⟨hb, hl⟩

/-! ### The rows of a sprite -/

/-- R160, R163: one of the first `n` rows of a sprite, drawn from row `row` and column `col`, hits `(r', c')`. -/
def RowsHit (row col : Nat) (rowByte : Nat → Byte) (n : Nat) (r' : Fin 32) (c' : Fin 64) : Prop :=
  ∃ k, k < n ∧ BitsHit (Fin.ofNat 32 (row + k)) col (rowByte k) 8 r' c'

/-- One more row: the pixels hit are those already hit, and those the new row hits. -/
theorem rowsHit_succ (row col : Nat) (rowByte : Nat → Byte) (n : Nat) (r' : Fin 32) (c' : Fin 64) :
    RowsHit row col rowByte (n + 1) r' c' ↔
      RowsHit row col rowByte n r' c' ∨ BitsHit (Fin.ofNat 32 (row + n)) col (rowByte n) 8 r' c' := by
  constructor
  · rintro ⟨k, hk, h⟩
    by_cases hkn : k = n
    · subst hkn
      exact .inr h
    · exact .inl ⟨k, by omega, h⟩
  · rintro (⟨k, hk, h⟩ | h)
    · exact ⟨k, by omega, h⟩
    · exact ⟨n, by omega, h⟩

/-- The rows of a sprite are distinct, so what a row hits no earlier row hit. -/
theorem not_rowsHit_of_bitsHit (row col : Nat) (rowByte : Nat → Byte) {n : Nat} (hn : n < 32) {r' : Fin 32} {c' : Fin 64}
    (h : BitsHit (Fin.ofNat 32 (row + n)) col (rowByte n) 8 r' c') : ¬ RowsHit row col rowByte n r' c' := by
  rintro ⟨k, hk, hr, _⟩
  have hr : (row + n) % 32 = (row + k) % 32 := congrArg Fin.val (h.1.symm.trans hr)
  omega

/-- R163: drawing a sprite turns over the pixels it hits, and no other. -/
theorem Blit.pixel_rows (b : Blit) (row col : Nat) (rowByte : Nat → Byte) (n : Nat) (hn : n ≤ 32) (r' : Fin 32)
    (c' : Fin 64) :
    (RowsHit row col rowByte n r' c' → (b.rows row col rowByte n).disp.pixel r' c' = !b.disp.pixel r' c') ∧
    (¬ RowsHit row col rowByte n r' c' → (b.rows row col rowByte n).disp.pixel r' c' = b.disp.pixel r' c') := by
  induction n with
  | zero => simp [RowsHit, Blit.rows]
  | succ n ih =>
    obtain ⟨ih1, ih2⟩ := ih (by omega)
    obtain ⟨h1, h2⟩ := (b.rows row col rowByte n).pixel_bits (Fin.ofNat 32 (row + n)) col (rowByte n) 8 (by omega) r' c'
    simp only [Blit.rows, rowsHit_succ]
    by_cases h : BitsHit (Fin.ofNat 32 (row + n)) col (rowByte n) 8 r' c'
    · rw [h1 h, ih2 (not_rowsHit_of_bitsHit row col rowByte (by omega) h)]
      exact ⟨fun _ => rfl, fun hn => absurd (Or.inr h) hn⟩
    · rw [h2 h]
      simp only [h, or_false]
      exact ⟨ih1, ih2⟩

/-- R163: drawing a sprite collides when it hits a lit pixel. -/
theorem Blit.hit_rows (b : Blit) (row col : Nat) (rowByte : Nat → Byte) (n : Nat) (hn : n ≤ 32) :
    (b.rows row col rowByte n).hit = true ↔
      b.hit = true ∨ ∃ r' c', RowsHit row col rowByte n r' c' ∧ b.disp.pixel r' c' = true := by
  induction n with
  | zero => simp [RowsHit, Blit.rows]
  | succ n ih =>
    have hp : ∀ r' c', BitsHit (Fin.ofNat 32 (row + n)) col (rowByte n) 8 r' c' →
        (b.rows row col rowByte n).disp.pixel r' c' = b.disp.pixel r' c' := fun r' c' h =>
      (b.pixel_rows row col rowByte n (by omega) r' c').2 (not_rowsHit_of_bitsHit row col rowByte (by omega) h)
    simp only [Blit.rows, Blit.hit_bits _ _ _ _ 8 (Nat.le_refl 8), ih (by omega), rowsHit_succ]
    constructor
    · rintro ((h | ⟨r', c', h, hl⟩) | ⟨r', c', h, hl⟩)
      · exact .inl h
      · exact .inr ⟨r', c', .inl h, hl⟩
      · exact .inr ⟨r', c', .inr h, hp r' c' h ▸ hl⟩
    · rintro (h | ⟨r', c', h | h, hl⟩)
      · exact .inl (.inl h)
      · exact .inl (.inr ⟨r', c', h, hl⟩)
      · exact .inr ⟨r', c', h, (hp r' c' h).symm ▸ hl⟩

end Sys2Proof.Machine
end

