-- ==== Sys2Proof/Laws/Flags.lean ====
section
/-! SUPPORT. What the arithmetic results and flags are, as numbers (spec/41_arithmetic.md R136 to R140; spec/43_memory_index.md R181). -/

namespace Sys2Proof.Machine

theorem addData_toNat (a b : Byte) : (addData a b).toNat = (a.toNat + b.toNat) % 256 := by
  simp [addData, addWide]

theorem addCarry_eq (a b : Byte) : addCarry a b = if a.toNat + b.toNat > 255 then 1 else 0 := by
  have ha := a.isLt
  have hb := b.isLt
  apply BitVec.eq_of_toNat_eq
  simp only [addCarry, addWide, Nat.shiftRight_eq_div_pow, BitVec.toNat_ofNat]
  split <;> simp <;> omega

theorem subWide_eq (a b : Byte) :
    subWide a b = if b.toNat ≤ a.toNat then a.toNat - b.toNat else a.toNat + 512 - b.toNat := by
  have ha := a.isLt
  have hb := b.isLt
  unfold subWide
  split <;> omega

theorem subData_toNat (a b : Byte) : (subData a b).toNat = (a.toNat + 256 - b.toNat) % 256 := by
  have ha := a.isLt
  have hb := b.isLt
  simp only [subData, BitVec.toNat_ofNat, subWide_eq]
  split <;> omega

theorem subNotBorrow_eq (a b : Byte) : subNotBorrow a b = if b.toNat ≤ a.toNat then 1 else 0 := by
  have ha := a.isLt
  have hb := b.isLt
  simp only [subNotBorrow, flagByte, subWide_eq, Nat.testBit_eq_decide_div_mod_eq]
  by_cases h : b.toNat ≤ a.toNat
  · have : (a.toNat - b.toNat) / 256 % 2 = 0 := by omega
    simp [h, this]
  · have : (a.toNat + 512 - b.toNat) / 256 % 2 = 1 := by omega
    simp [h, this]

theorem shrData_toNat (b : Byte) : (shrData b).toNat = b.toNat / 2 := by
  simp [shrData, Nat.shiftRight_eq_div_pow]

theorem shrOut_toNat (b : Byte) : (shrOut b).toNat = b.toNat % 2 := by
  simp [shrOut]

theorem shlData_toNat (b : Byte) : (shlData b).toNat = b.toNat * 2 % 256 := by
  simp [shlData, Nat.shiftLeft_eq]

theorem shlOut_toNat (b : Byte) : (shlOut b).toNat = b.toNat / 128 := by
  simp [shlOut, Nat.shiftRight_eq_div_pow]

theorem indexCarry_eq (i : Word) (a : Byte) :
    indexCarry i a = if i.toNat % 0x1000 + a.toNat > 0xFFF then 1 else 0 := by
  have ha := a.isLt
  apply BitVec.eq_of_toNat_eq
  simp only [indexCarry, indexSum, Nat.shiftRight_eq_div_pow, BitVec.toNat_ofNat]
  split <;> simp <;> omega

end Sys2Proof.Machine
end

