-- ==== Sys2Proof/Laws/Memory.lean ====
section
/-! SUPPORT. The laws of memory (spec/20_memory.md R61): read after write, and that every memory operation keeps the canonical
form. -/

namespace Sys2Proof.Machine

theorem mask12_lt (a : Nat) : mask12 a < 0x1000 := Nat.mod_lt _ (by decide)

@[simp] theorem mask12_mask12 (a : Nat) : mask12 (mask12 a) = mask12 a := Nat.mod_mod _ _

theorem mask12_of_lt {a : Nat} (h : a < 0x1000) : mask12 a = a := Nat.mod_eq_of_lt h

/-! ### Read after write -/

theorem Memory.lookup_insert (a b : Nat) (v : Byte) (m : Memory) :
    Memory.lookup b (Memory.insert a v m) = if b = a then some v else Memory.lookup b m := by
  induction m with
  | nil => rfl
  | cons cell rest ih =>
    obtain ⟨k, w⟩ := cell
    simp only [Memory.insert]
    split
    · rfl
    · split
      · simp only [Memory.lookup]
        split <;> simp_all
      · rename_i hne
        simp only [Memory.lookup, ih]
        split
        · rename_i hk
          rw [if_neg (fun h => hne (h.symm.trans hk))]
        · rfl

theorem Memory.lookup_remove (a b : Nat) (m : Memory) :
    Memory.lookup b (Memory.remove a m) = if b = a then none else Memory.lookup b m := by
  induction m with
  | nil => simp [Memory.remove, Memory.lookup]
  | cons cell rest ih =>
    obtain ⟨k, w⟩ := cell
    simp only [Memory.remove] at ih ⊢
    by_cases hk : k = a
    · subst hk
      simp only [List.filter_cons, bne_self_eq_false, Bool.false_eq_true, if_false, ih, Memory.lookup]
      split <;> simp_all
    · simp only [List.filter_cons, bne_iff_ne, ne_eq, hk, not_false_eq_true, if_true, Memory.lookup, ih]
      split <;> simp_all

/-- R61: a read after a write sees the byte written at the same masked address, and every other byte as it was. -/
theorem Memory.read_write (c : Config) (m : Memory) (a b : Nat) (v : Byte) :
    Memory.read c (Memory.write c m a v) b = if mask12 b = mask12 a then v else Memory.read c m b := by
  unfold Memory.read Memory.write
  split
  · rename_i h
    rw [Memory.lookup_remove]
    split <;> simp_all
  · rw [Memory.lookup_insert]
    split <;> simp_all

/-- R61 on states. -/
theorem State.memRead_memWrite (s : State) (a b : Nat) (v : Byte) :
    (s.memWrite a v).memRead b = if mask12 b = mask12 a then v else s.memRead b :=
  Memory.read_write s.config s.mem a b v

/-- R61: only the low 12 bits of an address count. -/
@[simp] theorem State.memRead_mask12 (s : State) (a : Nat) : s.memRead (mask12 a) = s.memRead a := by
  simp [State.memRead, Memory.read]

theorem State.memRead_congr (s : State) {a b : Nat} (h : mask12 a = mask12 b) : s.memRead a = s.memRead b := by
  rw [← State.memRead_mask12, h, State.memRead_mask12]

/-! ### The canonical form -/

theorem Memory.rising_iff (m : Memory) : Memory.rising m = true ↔ m.Pairwise (fun p q => p.1 < q.1) := by
  induction m with
  | nil => simp [Memory.rising]
  | cons cell rest ih =>
    obtain ⟨a, v⟩ := cell
    cases rest with
    | nil => simp [Memory.rising]
    | cons cell' rest' =>
      obtain ⟨b, w⟩ := cell'
      simp only [Memory.rising, Bool.and_eq_true, decide_eq_true_eq, ih, List.pairwise_cons]
      constructor
      · rintro ⟨hab, hb, hr⟩
        refine ⟨fun q hq => ?_, hb, hr⟩
        rcases List.mem_cons.mp hq with rfl | hq
        · exact hab
        · exact Nat.lt_trans hab (hb q hq)
      · rintro ⟨ha, hb, hr⟩
        exact ⟨ha (b, w) (List.mem_cons_self ..), hb, hr⟩

theorem Memory.wf_iff (c : Config) (m : Memory) :
    Memory.wf c m = true ↔ m.Pairwise (fun p q => p.1 < q.1) ∧ ∀ p ∈ m, p.1 < 0x1000 ∧ p.2 ≠ resetByte c p.1 := by
  simp [Memory.wf, Memory.rising_iff]

theorem Memory.mem_insert {a : Nat} {v : Byte} {m : Memory} {p : Host.Cell} (h : p ∈ Memory.insert a v m) :
    p = (a, v) ∨ p ∈ m := by
  induction m with
  | nil => simpa [Memory.insert] using h
  | cons cell rest ih =>
    obtain ⟨b, w⟩ := cell
    simp only [Memory.insert] at h
    split at h
    · simpa using h
    · split at h
      · rcases List.mem_cons.mp h with h | h
        · exact .inl h
        · exact .inr (List.mem_cons_of_mem _ h)
      · rcases List.mem_cons.mp h with h | h
        · exact .inr (by simp [h])
        · rcases ih h with h | h
          · exact .inl h
          · exact .inr (List.mem_cons_of_mem _ h)

theorem Memory.insert_pairwise (a : Nat) (v : Byte) (m : Memory) (h : m.Pairwise (fun p q => p.1 < q.1)) :
    (Memory.insert a v m).Pairwise (fun p q => p.1 < q.1) := by
  induction m with
  | nil => simp [Memory.insert]
  | cons cell rest ih =>
    obtain ⟨b, w⟩ := cell
    obtain ⟨hb, hr⟩ := List.pairwise_cons.mp h
    simp only [Memory.insert]
    split
    · rename_i hab
      refine List.pairwise_cons.mpr ⟨fun q hq => ?_, h⟩
      rcases List.mem_cons.mp hq with rfl | hq
      · exact hab
      · exact Nat.lt_trans hab (hb q hq)
    · split
      · rename_i hab
        subst hab
        exact List.pairwise_cons.mpr ⟨hb, hr⟩
      · rename_i h1 h2
        refine List.pairwise_cons.mpr ⟨fun q hq => ?_, ih hr⟩
        rcases Memory.mem_insert hq with rfl | hq
        · exact Nat.lt_of_le_of_ne (Nat.le_of_not_lt h1) (Ne.symm h2)
        · exact hb q hq

/-- A write keeps the canonical form. -/
theorem Memory.wf_write (c : Config) (m : Memory) (a : Nat) (v : Byte) (h : Memory.wf c m = true) :
    Memory.wf c (Memory.write c m a v) = true := by
  obtain ⟨hp, hc⟩ := (Memory.wf_iff c m).mp h
  rw [Memory.wf_iff]
  unfold Memory.write
  split
  · refine ⟨hp.filter _, fun p hm => hc p (List.mem_filter.mp hm).1⟩
  · rename_i hv
    refine ⟨Memory.insert_pairwise _ _ _ hp, fun p hm => ?_⟩
    rcases Memory.mem_insert hm with rfl | hm
    · exact ⟨mask12_lt a, hv⟩
    · exact hc p hm

/-- Writing bytes one after another keeps the canonical form. -/
theorem State.storeBytes_wf (s : State) (a : Nat) (bs : List Byte) (h : Memory.wf s.config s.mem = true) :
    Memory.wf (s.storeBytes a bs).config (s.storeBytes a bs).mem = true := by
  induction bs generalizing s a with
  | nil => exact h
  | cons b rest ih => exact ih _ _ (Memory.wf_write s.config s.mem a b h)

/-- The memory of creation, and of reset, is in canonical form: it lists nothing. -/
theorem State.create_wf (c : Config) : Memory.wf (State.create c).config (State.create c).mem = true := rfl

theorem State.reset_wf : Memory.wf State.reset.config State.reset.mem = true := rfl

/-! ### What a run of stored bytes does -/

/-- R61, R64: after storing bytes at `a`, `a + 1`, …, a byte outside them reads as before. -/
theorem State.memRead_storeBytes_of_ne (s : State) (a b : Nat) (bs : List Byte)
    (h : ∀ k, k < bs.length → mask12 b ≠ mask12 (a + k)) : (s.storeBytes a bs).memRead b = s.memRead b := by
  induction bs generalizing s a with
  | nil => rfl
  | cons v rest ih =>
    rw [State.storeBytes, ih, State.memRead_memWrite, if_neg]
    · exact h 0 (by simp)
    · intro k hk
      have := h (k + 1) (by simpa using hk)
      rwa [Nat.add_comm k 1, ← Nat.add_assoc] at this

/-- R61, R64: at most 4096 bytes stored at `a`, `a + 1`, … read back as stored. -/
theorem State.memRead_storeBytes (s : State) (a : Nat) (bs : List Byte) (hl : bs.length ≤ 0x1000) (k : Nat)
    (hk : k < bs.length) : (s.storeBytes a bs).memRead (a + k) = bs[k] := by
  induction bs generalizing s a k with
  | nil => simp at hk
  | cons v rest ih =>
    rw [State.storeBytes]
    cases k with
    | zero =>
      rw [State.memRead_storeBytes_of_ne, Nat.add_zero, State.memRead_memWrite, if_pos rfl]
      · rfl
      · intro j hj
        simp only [List.length_cons] at hl
        simp only [mask12]
        omega
    | succ j =>
      have hj : j < rest.length := by simpa using hk
      have := ih (s := s.memWrite a v) (a := a + 1) (by simp at hl; omega) j hj
      rw [Nat.add_assoc, Nat.add_comm 1 j] at this
      simpa using this

end Sys2Proof.Machine
end

