-- ==== Sys2Proof/Laws/State.lean ====
section
/-! SUPPORT. One lemma per field per update of State, and per reading per update that leaves it alone, so that no later
proof unfolds a record update. -/

namespace Sys2Proof.Machine


/-! ### `setReg` -/

@[simp] theorem State.setReg_config (s : State) (x : RegIdx) (b : Byte) : (s.setReg x b).config = s.config := rfl
@[simp] theorem State.setReg_v (s : State) (x : RegIdx) (b : Byte) : (s.setReg x b).v = s.v.set x.val b x.isLt := rfl
@[simp] theorem State.setReg_i (s : State) (x : RegIdx) (b : Byte) : (s.setReg x b).i = s.i := rfl
@[simp] theorem State.setReg_pc (s : State) (x : RegIdx) (b : Byte) : (s.setReg x b).pc = s.pc := rfl
@[simp] theorem State.setReg_sp (s : State) (x : RegIdx) (b : Byte) : (s.setReg x b).sp = s.sp := rfl
@[simp] theorem State.setReg_stack (s : State) (x : RegIdx) (b : Byte) : (s.setReg x b).stack = s.stack := rfl
@[simp] theorem State.setReg_dt (s : State) (x : RegIdx) (b : Byte) : (s.setReg x b).dt = s.dt := rfl
@[simp] theorem State.setReg_st (s : State) (x : RegIdx) (b : Byte) : (s.setReg x b).st = s.st := rfl
@[simp] theorem State.setReg_keys (s : State) (x : RegIdx) (b : Byte) : (s.setReg x b).keys = s.keys := rfl
@[simp] theorem State.setReg_disp (s : State) (x : RegIdx) (b : Byte) : (s.setReg x b).disp = s.disp := rfl
@[simp] theorem State.setReg_waitingKey (s : State) (x : RegIdx) (b : Byte) : (s.setReg x b).waitingKey = s.waitingKey := rfl
@[simp] theorem State.setReg_unknownCount (s : State) (x : RegIdx) (b : Byte) : (s.setReg x b).unknownCount = s.unknownCount := rfl
@[simp] theorem State.setReg_draws (s : State) (x : RegIdx) (b : Byte) : (s.setReg x b).draws = s.draws := rfl
@[simp] theorem State.setReg_mem (s : State) (x : RegIdx) (b : Byte) : (s.setReg x b).mem = s.mem := rfl
@[simp] theorem State.setReg_memRead (s : State) (x : RegIdx) (b : Byte) (p : Nat) : (s.setReg x b).memRead p = s.memRead p := rfl
@[simp] theorem State.setReg_key (s : State) (x : RegIdx) (b : Byte) (q : KeyIdx) : (s.setReg x b).key q = s.key q := rfl
@[simp] theorem State.setReg_depth (s : State) (x : RegIdx) (b : Byte) : (s.setReg x b).depth = s.depth := rfl

/-! ### `setPc` -/

@[simp] theorem State.setPc_config (s : State) (t : Nat) : (s.setPc t).config = s.config := rfl
@[simp] theorem State.setPc_v (s : State) (t : Nat) : (s.setPc t).v = s.v := rfl
@[simp] theorem State.setPc_i (s : State) (t : Nat) : (s.setPc t).i = s.i := rfl
@[simp] theorem State.setPc_pc (s : State) (t : Nat) : (s.setPc t).pc = BitVec.ofNat 16 (mask12 t) := rfl
@[simp] theorem State.setPc_sp (s : State) (t : Nat) : (s.setPc t).sp = s.sp := rfl
@[simp] theorem State.setPc_stack (s : State) (t : Nat) : (s.setPc t).stack = s.stack := rfl
@[simp] theorem State.setPc_dt (s : State) (t : Nat) : (s.setPc t).dt = s.dt := rfl
@[simp] theorem State.setPc_st (s : State) (t : Nat) : (s.setPc t).st = s.st := rfl
@[simp] theorem State.setPc_keys (s : State) (t : Nat) : (s.setPc t).keys = s.keys := rfl
@[simp] theorem State.setPc_disp (s : State) (t : Nat) : (s.setPc t).disp = s.disp := rfl
@[simp] theorem State.setPc_waitingKey (s : State) (t : Nat) : (s.setPc t).waitingKey = s.waitingKey := rfl
@[simp] theorem State.setPc_unknownCount (s : State) (t : Nat) : (s.setPc t).unknownCount = s.unknownCount := rfl
@[simp] theorem State.setPc_draws (s : State) (t : Nat) : (s.setPc t).draws = s.draws := rfl
@[simp] theorem State.setPc_mem (s : State) (t : Nat) : (s.setPc t).mem = s.mem := rfl
@[simp] theorem State.setPc_reg (s : State) (t : Nat) (z : RegIdx) : (s.setPc t).reg z = s.reg z := rfl
@[simp] theorem State.setPc_memRead (s : State) (t : Nat) (p : Nat) : (s.setPc t).memRead p = s.memRead p := rfl
@[simp] theorem State.setPc_key (s : State) (t : Nat) (q : KeyIdx) : (s.setPc t).key q = s.key q := rfl
@[simp] theorem State.setPc_depth (s : State) (t : Nat) : (s.setPc t).depth = s.depth := rfl

/-! ### `setI` -/

@[simp] theorem State.setI_config (s : State) (t : Nat) : (s.setI t).config = s.config := rfl
@[simp] theorem State.setI_v (s : State) (t : Nat) : (s.setI t).v = s.v := rfl
@[simp] theorem State.setI_i (s : State) (t : Nat) : (s.setI t).i = BitVec.ofNat 16 t := rfl
@[simp] theorem State.setI_pc (s : State) (t : Nat) : (s.setI t).pc = s.pc := rfl
@[simp] theorem State.setI_sp (s : State) (t : Nat) : (s.setI t).sp = s.sp := rfl
@[simp] theorem State.setI_stack (s : State) (t : Nat) : (s.setI t).stack = s.stack := rfl
@[simp] theorem State.setI_dt (s : State) (t : Nat) : (s.setI t).dt = s.dt := rfl
@[simp] theorem State.setI_st (s : State) (t : Nat) : (s.setI t).st = s.st := rfl
@[simp] theorem State.setI_keys (s : State) (t : Nat) : (s.setI t).keys = s.keys := rfl
@[simp] theorem State.setI_disp (s : State) (t : Nat) : (s.setI t).disp = s.disp := rfl
@[simp] theorem State.setI_waitingKey (s : State) (t : Nat) : (s.setI t).waitingKey = s.waitingKey := rfl
@[simp] theorem State.setI_unknownCount (s : State) (t : Nat) : (s.setI t).unknownCount = s.unknownCount := rfl
@[simp] theorem State.setI_draws (s : State) (t : Nat) : (s.setI t).draws = s.draws := rfl
@[simp] theorem State.setI_mem (s : State) (t : Nat) : (s.setI t).mem = s.mem := rfl
@[simp] theorem State.setI_reg (s : State) (t : Nat) (z : RegIdx) : (s.setI t).reg z = s.reg z := rfl
@[simp] theorem State.setI_memRead (s : State) (t : Nat) (p : Nat) : (s.setI t).memRead p = s.memRead p := rfl
@[simp] theorem State.setI_key (s : State) (t : Nat) (q : KeyIdx) : (s.setI t).key q = s.key q := rfl
@[simp] theorem State.setI_depth (s : State) (t : Nat) : (s.setI t).depth = s.depth := rfl

/-! ### `setDt` -/

@[simp] theorem State.setDt_config (s : State) (b : Byte) : (s.setDt b).config = s.config := rfl
@[simp] theorem State.setDt_v (s : State) (b : Byte) : (s.setDt b).v = s.v := rfl
@[simp] theorem State.setDt_i (s : State) (b : Byte) : (s.setDt b).i = s.i := rfl
@[simp] theorem State.setDt_pc (s : State) (b : Byte) : (s.setDt b).pc = s.pc := rfl
@[simp] theorem State.setDt_sp (s : State) (b : Byte) : (s.setDt b).sp = s.sp := rfl
@[simp] theorem State.setDt_stack (s : State) (b : Byte) : (s.setDt b).stack = s.stack := rfl
@[simp] theorem State.setDt_dt (s : State) (b : Byte) : (s.setDt b).dt = b := rfl
@[simp] theorem State.setDt_st (s : State) (b : Byte) : (s.setDt b).st = s.st := rfl
@[simp] theorem State.setDt_keys (s : State) (b : Byte) : (s.setDt b).keys = s.keys := rfl
@[simp] theorem State.setDt_disp (s : State) (b : Byte) : (s.setDt b).disp = s.disp := rfl
@[simp] theorem State.setDt_waitingKey (s : State) (b : Byte) : (s.setDt b).waitingKey = s.waitingKey := rfl
@[simp] theorem State.setDt_unknownCount (s : State) (b : Byte) : (s.setDt b).unknownCount = s.unknownCount := rfl
@[simp] theorem State.setDt_draws (s : State) (b : Byte) : (s.setDt b).draws = s.draws := rfl
@[simp] theorem State.setDt_mem (s : State) (b : Byte) : (s.setDt b).mem = s.mem := rfl
@[simp] theorem State.setDt_reg (s : State) (b : Byte) (z : RegIdx) : (s.setDt b).reg z = s.reg z := rfl
@[simp] theorem State.setDt_memRead (s : State) (b : Byte) (p : Nat) : (s.setDt b).memRead p = s.memRead p := rfl
@[simp] theorem State.setDt_key (s : State) (b : Byte) (q : KeyIdx) : (s.setDt b).key q = s.key q := rfl
@[simp] theorem State.setDt_depth (s : State) (b : Byte) : (s.setDt b).depth = s.depth := rfl

/-! ### `setSt` -/

@[simp] theorem State.setSt_config (s : State) (b : Byte) : (s.setSt b).config = s.config := rfl
@[simp] theorem State.setSt_v (s : State) (b : Byte) : (s.setSt b).v = s.v := rfl
@[simp] theorem State.setSt_i (s : State) (b : Byte) : (s.setSt b).i = s.i := rfl
@[simp] theorem State.setSt_pc (s : State) (b : Byte) : (s.setSt b).pc = s.pc := rfl
@[simp] theorem State.setSt_sp (s : State) (b : Byte) : (s.setSt b).sp = s.sp := rfl
@[simp] theorem State.setSt_stack (s : State) (b : Byte) : (s.setSt b).stack = s.stack := rfl
@[simp] theorem State.setSt_dt (s : State) (b : Byte) : (s.setSt b).dt = s.dt := rfl
@[simp] theorem State.setSt_st (s : State) (b : Byte) : (s.setSt b).st = b := rfl
@[simp] theorem State.setSt_keys (s : State) (b : Byte) : (s.setSt b).keys = s.keys := rfl
@[simp] theorem State.setSt_disp (s : State) (b : Byte) : (s.setSt b).disp = s.disp := rfl
@[simp] theorem State.setSt_waitingKey (s : State) (b : Byte) : (s.setSt b).waitingKey = s.waitingKey := rfl
@[simp] theorem State.setSt_unknownCount (s : State) (b : Byte) : (s.setSt b).unknownCount = s.unknownCount := rfl
@[simp] theorem State.setSt_draws (s : State) (b : Byte) : (s.setSt b).draws = s.draws := rfl
@[simp] theorem State.setSt_mem (s : State) (b : Byte) : (s.setSt b).mem = s.mem := rfl
@[simp] theorem State.setSt_reg (s : State) (b : Byte) (z : RegIdx) : (s.setSt b).reg z = s.reg z := rfl
@[simp] theorem State.setSt_memRead (s : State) (b : Byte) (p : Nat) : (s.setSt b).memRead p = s.memRead p := rfl
@[simp] theorem State.setSt_key (s : State) (b : Byte) (q : KeyIdx) : (s.setSt b).key q = s.key q := rfl
@[simp] theorem State.setSt_depth (s : State) (b : Byte) : (s.setSt b).depth = s.depth := rfl

/-! ### `setWaiting` -/

@[simp] theorem State.setWaiting_config (s : State) (w : Option RegIdx) : (s.setWaiting w).config = s.config := rfl
@[simp] theorem State.setWaiting_v (s : State) (w : Option RegIdx) : (s.setWaiting w).v = s.v := rfl
@[simp] theorem State.setWaiting_i (s : State) (w : Option RegIdx) : (s.setWaiting w).i = s.i := rfl
@[simp] theorem State.setWaiting_pc (s : State) (w : Option RegIdx) : (s.setWaiting w).pc = s.pc := rfl
@[simp] theorem State.setWaiting_sp (s : State) (w : Option RegIdx) : (s.setWaiting w).sp = s.sp := rfl
@[simp] theorem State.setWaiting_stack (s : State) (w : Option RegIdx) : (s.setWaiting w).stack = s.stack := rfl
@[simp] theorem State.setWaiting_dt (s : State) (w : Option RegIdx) : (s.setWaiting w).dt = s.dt := rfl
@[simp] theorem State.setWaiting_st (s : State) (w : Option RegIdx) : (s.setWaiting w).st = s.st := rfl
@[simp] theorem State.setWaiting_keys (s : State) (w : Option RegIdx) : (s.setWaiting w).keys = s.keys := rfl
@[simp] theorem State.setWaiting_disp (s : State) (w : Option RegIdx) : (s.setWaiting w).disp = s.disp := rfl
@[simp] theorem State.setWaiting_waitingKey (s : State) (w : Option RegIdx) : (s.setWaiting w).waitingKey = w := rfl
@[simp] theorem State.setWaiting_unknownCount (s : State) (w : Option RegIdx) : (s.setWaiting w).unknownCount = s.unknownCount := rfl
@[simp] theorem State.setWaiting_draws (s : State) (w : Option RegIdx) : (s.setWaiting w).draws = s.draws := rfl
@[simp] theorem State.setWaiting_mem (s : State) (w : Option RegIdx) : (s.setWaiting w).mem = s.mem := rfl
@[simp] theorem State.setWaiting_reg (s : State) (w : Option RegIdx) (z : RegIdx) : (s.setWaiting w).reg z = s.reg z := rfl
@[simp] theorem State.setWaiting_memRead (s : State) (w : Option RegIdx) (p : Nat) : (s.setWaiting w).memRead p = s.memRead p := rfl
@[simp] theorem State.setWaiting_key (s : State) (w : Option RegIdx) (q : KeyIdx) : (s.setWaiting w).key q = s.key q := rfl
@[simp] theorem State.setWaiting_depth (s : State) (w : Option RegIdx) : (s.setWaiting w).depth = s.depth := rfl

/-! ### `setDisp` -/

@[simp] theorem State.setDisp_config (s : State) (d : Display) : (s.setDisp d).config = s.config := rfl
@[simp] theorem State.setDisp_v (s : State) (d : Display) : (s.setDisp d).v = s.v := rfl
@[simp] theorem State.setDisp_i (s : State) (d : Display) : (s.setDisp d).i = s.i := rfl
@[simp] theorem State.setDisp_pc (s : State) (d : Display) : (s.setDisp d).pc = s.pc := rfl
@[simp] theorem State.setDisp_sp (s : State) (d : Display) : (s.setDisp d).sp = s.sp := rfl
@[simp] theorem State.setDisp_stack (s : State) (d : Display) : (s.setDisp d).stack = s.stack := rfl
@[simp] theorem State.setDisp_dt (s : State) (d : Display) : (s.setDisp d).dt = s.dt := rfl
@[simp] theorem State.setDisp_st (s : State) (d : Display) : (s.setDisp d).st = s.st := rfl
@[simp] theorem State.setDisp_keys (s : State) (d : Display) : (s.setDisp d).keys = s.keys := rfl
@[simp] theorem State.setDisp_disp (s : State) (d : Display) : (s.setDisp d).disp = d := rfl
@[simp] theorem State.setDisp_waitingKey (s : State) (d : Display) : (s.setDisp d).waitingKey = s.waitingKey := rfl
@[simp] theorem State.setDisp_unknownCount (s : State) (d : Display) : (s.setDisp d).unknownCount = s.unknownCount := rfl
@[simp] theorem State.setDisp_draws (s : State) (d : Display) : (s.setDisp d).draws = s.draws := rfl
@[simp] theorem State.setDisp_mem (s : State) (d : Display) : (s.setDisp d).mem = s.mem := rfl
@[simp] theorem State.setDisp_reg (s : State) (d : Display) (z : RegIdx) : (s.setDisp d).reg z = s.reg z := rfl
@[simp] theorem State.setDisp_memRead (s : State) (d : Display) (p : Nat) : (s.setDisp d).memRead p = s.memRead p := rfl
@[simp] theorem State.setDisp_key (s : State) (d : Display) (q : KeyIdx) : (s.setDisp d).key q = s.key q := rfl
@[simp] theorem State.setDisp_depth (s : State) (d : Display) : (s.setDisp d).depth = s.depth := rfl

/-! ### `memWrite` -/

@[simp] theorem State.memWrite_config (s : State) (a : Nat) (b : Byte) : (s.memWrite a b).config = s.config := rfl
@[simp] theorem State.memWrite_v (s : State) (a : Nat) (b : Byte) : (s.memWrite a b).v = s.v := rfl
@[simp] theorem State.memWrite_i (s : State) (a : Nat) (b : Byte) : (s.memWrite a b).i = s.i := rfl
@[simp] theorem State.memWrite_pc (s : State) (a : Nat) (b : Byte) : (s.memWrite a b).pc = s.pc := rfl
@[simp] theorem State.memWrite_sp (s : State) (a : Nat) (b : Byte) : (s.memWrite a b).sp = s.sp := rfl
@[simp] theorem State.memWrite_stack (s : State) (a : Nat) (b : Byte) : (s.memWrite a b).stack = s.stack := rfl
@[simp] theorem State.memWrite_dt (s : State) (a : Nat) (b : Byte) : (s.memWrite a b).dt = s.dt := rfl
@[simp] theorem State.memWrite_st (s : State) (a : Nat) (b : Byte) : (s.memWrite a b).st = s.st := rfl
@[simp] theorem State.memWrite_keys (s : State) (a : Nat) (b : Byte) : (s.memWrite a b).keys = s.keys := rfl
@[simp] theorem State.memWrite_disp (s : State) (a : Nat) (b : Byte) : (s.memWrite a b).disp = s.disp := rfl
@[simp] theorem State.memWrite_waitingKey (s : State) (a : Nat) (b : Byte) : (s.memWrite a b).waitingKey = s.waitingKey := rfl
@[simp] theorem State.memWrite_unknownCount (s : State) (a : Nat) (b : Byte) : (s.memWrite a b).unknownCount = s.unknownCount := rfl
@[simp] theorem State.memWrite_draws (s : State) (a : Nat) (b : Byte) : (s.memWrite a b).draws = s.draws := rfl
@[simp] theorem State.memWrite_mem (s : State) (a : Nat) (b : Byte) : (s.memWrite a b).mem = Memory.write s.config s.mem a b := rfl
@[simp] theorem State.memWrite_reg (s : State) (a : Nat) (b : Byte) (z : RegIdx) : (s.memWrite a b).reg z = s.reg z := rfl
@[simp] theorem State.memWrite_key (s : State) (a : Nat) (b : Byte) (q : KeyIdx) : (s.memWrite a b).key q = s.key q := rfl
@[simp] theorem State.memWrite_depth (s : State) (a : Nat) (b : Byte) : (s.memWrite a b).depth = s.depth := rfl

/-! ### `push` -/

@[simp] theorem State.push_config (s : State) (w : Word) : (s.push w).config = s.config := rfl
@[simp] theorem State.push_v (s : State) (w : Word) : (s.push w).v = s.v := rfl
@[simp] theorem State.push_i (s : State) (w : Word) : (s.push w).i = s.i := rfl
@[simp] theorem State.push_pc (s : State) (w : Word) : (s.push w).pc = s.pc := rfl
@[simp] theorem State.push_sp (s : State) (w : Word) : (s.push w).sp = s.spUp := rfl
@[simp] theorem State.push_stack (s : State) (w : Word) : (s.push w).stack = s.stack.set s.spUp.val w s.spUp.isLt := rfl
@[simp] theorem State.push_dt (s : State) (w : Word) : (s.push w).dt = s.dt := rfl
@[simp] theorem State.push_st (s : State) (w : Word) : (s.push w).st = s.st := rfl
@[simp] theorem State.push_keys (s : State) (w : Word) : (s.push w).keys = s.keys := rfl
@[simp] theorem State.push_disp (s : State) (w : Word) : (s.push w).disp = s.disp := rfl
@[simp] theorem State.push_waitingKey (s : State) (w : Word) : (s.push w).waitingKey = s.waitingKey := rfl
@[simp] theorem State.push_unknownCount (s : State) (w : Word) : (s.push w).unknownCount = s.unknownCount := rfl
@[simp] theorem State.push_draws (s : State) (w : Word) : (s.push w).draws = s.draws := rfl
@[simp] theorem State.push_mem (s : State) (w : Word) : (s.push w).mem = s.mem := rfl
@[simp] theorem State.push_reg (s : State) (w : Word) (z : RegIdx) : (s.push w).reg z = s.reg z := rfl
@[simp] theorem State.push_memRead (s : State) (w : Word) (p : Nat) : (s.push w).memRead p = s.memRead p := rfl
@[simp] theorem State.push_key (s : State) (w : Word) (q : KeyIdx) : (s.push w).key q = s.key q := rfl
@[simp] theorem State.push_depth (s : State) (w : Word) : (s.push w).depth = s.depth := rfl

/-! ### `pop` -/

@[simp] theorem State.pop_config (s : State) : (s.pop).config = s.config := rfl
@[simp] theorem State.pop_v (s : State) : (s.pop).v = s.v := rfl
@[simp] theorem State.pop_i (s : State) : (s.pop).i = s.i := rfl
@[simp] theorem State.pop_pc (s : State) : (s.pop).pc = s.pc := rfl
@[simp] theorem State.pop_sp (s : State) : (s.pop).sp = s.spDown := rfl
@[simp] theorem State.pop_stack (s : State) : (s.pop).stack = s.stack := rfl
@[simp] theorem State.pop_dt (s : State) : (s.pop).dt = s.dt := rfl
@[simp] theorem State.pop_st (s : State) : (s.pop).st = s.st := rfl
@[simp] theorem State.pop_keys (s : State) : (s.pop).keys = s.keys := rfl
@[simp] theorem State.pop_disp (s : State) : (s.pop).disp = s.disp := rfl
@[simp] theorem State.pop_waitingKey (s : State) : (s.pop).waitingKey = s.waitingKey := rfl
@[simp] theorem State.pop_unknownCount (s : State) : (s.pop).unknownCount = s.unknownCount := rfl
@[simp] theorem State.pop_draws (s : State) : (s.pop).draws = s.draws := rfl
@[simp] theorem State.pop_mem (s : State) : (s.pop).mem = s.mem := rfl
@[simp] theorem State.pop_reg (s : State) (z : RegIdx) : (s.pop).reg z = s.reg z := rfl
@[simp] theorem State.pop_memRead (s : State) (p : Nat) : (s.pop).memRead p = s.memRead p := rfl
@[simp] theorem State.pop_key (s : State) (q : KeyIdx) : (s.pop).key q = s.key q := rfl
@[simp] theorem State.pop_depth (s : State) : (s.pop).depth = s.depth := rfl

/-! ### `takeDraw` -/

@[simp] theorem State.takeDraw_config (s : State) : (s.takeDraw).config = s.config := rfl
@[simp] theorem State.takeDraw_v (s : State) : (s.takeDraw).v = s.v := rfl
@[simp] theorem State.takeDraw_i (s : State) : (s.takeDraw).i = s.i := rfl
@[simp] theorem State.takeDraw_pc (s : State) : (s.takeDraw).pc = s.pc := rfl
@[simp] theorem State.takeDraw_sp (s : State) : (s.takeDraw).sp = s.sp := rfl
@[simp] theorem State.takeDraw_stack (s : State) : (s.takeDraw).stack = s.stack := rfl
@[simp] theorem State.takeDraw_dt (s : State) : (s.takeDraw).dt = s.dt := rfl
@[simp] theorem State.takeDraw_st (s : State) : (s.takeDraw).st = s.st := rfl
@[simp] theorem State.takeDraw_keys (s : State) : (s.takeDraw).keys = s.keys := rfl
@[simp] theorem State.takeDraw_disp (s : State) : (s.takeDraw).disp = s.disp := rfl
@[simp] theorem State.takeDraw_waitingKey (s : State) : (s.takeDraw).waitingKey = s.waitingKey := rfl
@[simp] theorem State.takeDraw_unknownCount (s : State) : (s.takeDraw).unknownCount = s.unknownCount := rfl
@[simp] theorem State.takeDraw_draws (s : State) : (s.takeDraw).draws = s.draws + 1 := rfl
@[simp] theorem State.takeDraw_mem (s : State) : (s.takeDraw).mem = s.mem := rfl
@[simp] theorem State.takeDraw_reg (s : State) (z : RegIdx) : (s.takeDraw).reg z = s.reg z := rfl
@[simp] theorem State.takeDraw_memRead (s : State) (p : Nat) : (s.takeDraw).memRead p = s.memRead p := rfl
@[simp] theorem State.takeDraw_key (s : State) (q : KeyIdx) : (s.takeDraw).key q = s.key q := rfl
@[simp] theorem State.takeDraw_depth (s : State) : (s.takeDraw).depth = s.depth := rfl

/-! ### `countUnknown` -/

@[simp] theorem State.countUnknown_config (s : State) : (s.countUnknown).config = s.config := rfl
@[simp] theorem State.countUnknown_v (s : State) : (s.countUnknown).v = s.v := rfl
@[simp] theorem State.countUnknown_i (s : State) : (s.countUnknown).i = s.i := rfl
@[simp] theorem State.countUnknown_pc (s : State) : (s.countUnknown).pc = s.pc := rfl
@[simp] theorem State.countUnknown_sp (s : State) : (s.countUnknown).sp = s.sp := rfl
@[simp] theorem State.countUnknown_stack (s : State) : (s.countUnknown).stack = s.stack := rfl
@[simp] theorem State.countUnknown_dt (s : State) : (s.countUnknown).dt = s.dt := rfl
@[simp] theorem State.countUnknown_st (s : State) : (s.countUnknown).st = s.st := rfl
@[simp] theorem State.countUnknown_keys (s : State) : (s.countUnknown).keys = s.keys := rfl
@[simp] theorem State.countUnknown_disp (s : State) : (s.countUnknown).disp = s.disp := rfl
@[simp] theorem State.countUnknown_waitingKey (s : State) : (s.countUnknown).waitingKey = s.waitingKey := rfl
@[simp] theorem State.countUnknown_unknownCount (s : State) : (s.countUnknown).unknownCount = s.unknownCount + 1 := rfl
@[simp] theorem State.countUnknown_draws (s : State) : (s.countUnknown).draws = s.draws := rfl
@[simp] theorem State.countUnknown_mem (s : State) : (s.countUnknown).mem = s.mem := rfl
@[simp] theorem State.countUnknown_reg (s : State) (z : RegIdx) : (s.countUnknown).reg z = s.reg z := rfl
@[simp] theorem State.countUnknown_memRead (s : State) (p : Nat) : (s.countUnknown).memRead p = s.memRead p := rfl
@[simp] theorem State.countUnknown_key (s : State) (q : KeyIdx) : (s.countUnknown).key q = s.key q := rfl
@[simp] theorem State.countUnknown_depth (s : State) : (s.countUnknown).depth = s.depth := rfl

/-! ### `setKey` -/

@[simp] theorem State.setKey_config (s : State) (k : KeyIdx) (b : Bool) : (s.setKey k b).config = s.config := rfl
@[simp] theorem State.setKey_v (s : State) (k : KeyIdx) (b : Bool) : (s.setKey k b).v = s.v := rfl
@[simp] theorem State.setKey_i (s : State) (k : KeyIdx) (b : Bool) : (s.setKey k b).i = s.i := rfl
@[simp] theorem State.setKey_pc (s : State) (k : KeyIdx) (b : Bool) : (s.setKey k b).pc = s.pc := rfl
@[simp] theorem State.setKey_sp (s : State) (k : KeyIdx) (b : Bool) : (s.setKey k b).sp = s.sp := rfl
@[simp] theorem State.setKey_stack (s : State) (k : KeyIdx) (b : Bool) : (s.setKey k b).stack = s.stack := rfl
@[simp] theorem State.setKey_dt (s : State) (k : KeyIdx) (b : Bool) : (s.setKey k b).dt = s.dt := rfl
@[simp] theorem State.setKey_st (s : State) (k : KeyIdx) (b : Bool) : (s.setKey k b).st = s.st := rfl
@[simp] theorem State.setKey_keys (s : State) (k : KeyIdx) (b : Bool) : (s.setKey k b).keys = s.keys.set k.val b k.isLt := rfl
@[simp] theorem State.setKey_disp (s : State) (k : KeyIdx) (b : Bool) : (s.setKey k b).disp = s.disp := rfl
@[simp] theorem State.setKey_waitingKey (s : State) (k : KeyIdx) (b : Bool) : (s.setKey k b).waitingKey = s.waitingKey := rfl
@[simp] theorem State.setKey_unknownCount (s : State) (k : KeyIdx) (b : Bool) : (s.setKey k b).unknownCount = s.unknownCount := rfl
@[simp] theorem State.setKey_draws (s : State) (k : KeyIdx) (b : Bool) : (s.setKey k b).draws = s.draws := rfl
@[simp] theorem State.setKey_mem (s : State) (k : KeyIdx) (b : Bool) : (s.setKey k b).mem = s.mem := rfl
@[simp] theorem State.setKey_reg (s : State) (k : KeyIdx) (b : Bool) (z : RegIdx) : (s.setKey k b).reg z = s.reg z := rfl
@[simp] theorem State.setKey_memRead (s : State) (k : KeyIdx) (b : Bool) (p : Nat) : (s.setKey k b).memRead p = s.memRead p := rfl
@[simp] theorem State.setKey_depth (s : State) (k : KeyIdx) (b : Bool) : (s.setKey k b).depth = s.depth := rfl

/-! ### The flag writes are register writes (R22) -/

@[simp] theorem State.setFlag_eq (s : State) (f : Byte) : s.setFlag f = s.setReg flagReg f := rfl
@[simp] theorem State.setRegFlag_eq (s : State) (x : RegIdx) (data flag : Byte) :
    s.setRegFlag x data flag = (s.setReg x data).setReg flagReg flag := rfl


/-! ### `skipIf` -/

@[simp] theorem State.skipIf_config (s : State) (c : Bool) : (s.skipIf c).config = s.config := by cases c <;> rfl
@[simp] theorem State.skipIf_v (s : State) (c : Bool) : (s.skipIf c).v = s.v := by cases c <;> rfl
@[simp] theorem State.skipIf_i (s : State) (c : Bool) : (s.skipIf c).i = s.i := by cases c <;> rfl
@[simp] theorem State.skipIf_sp (s : State) (c : Bool) : (s.skipIf c).sp = s.sp := by cases c <;> rfl
@[simp] theorem State.skipIf_stack (s : State) (c : Bool) : (s.skipIf c).stack = s.stack := by cases c <;> rfl
@[simp] theorem State.skipIf_dt (s : State) (c : Bool) : (s.skipIf c).dt = s.dt := by cases c <;> rfl
@[simp] theorem State.skipIf_st (s : State) (c : Bool) : (s.skipIf c).st = s.st := by cases c <;> rfl
@[simp] theorem State.skipIf_keys (s : State) (c : Bool) : (s.skipIf c).keys = s.keys := by cases c <;> rfl
@[simp] theorem State.skipIf_disp (s : State) (c : Bool) : (s.skipIf c).disp = s.disp := by cases c <;> rfl
@[simp] theorem State.skipIf_waitingKey (s : State) (c : Bool) : (s.skipIf c).waitingKey = s.waitingKey := by cases c <;> rfl
@[simp] theorem State.skipIf_unknownCount (s : State) (c : Bool) : (s.skipIf c).unknownCount = s.unknownCount := by cases c <;> rfl
@[simp] theorem State.skipIf_draws (s : State) (c : Bool) : (s.skipIf c).draws = s.draws := by cases c <;> rfl
@[simp] theorem State.skipIf_mem (s : State) (c : Bool) : (s.skipIf c).mem = s.mem := by cases c <;> rfl
@[simp] theorem State.skipIf_reg (s : State) (c : Bool) (z : RegIdx) : (s.skipIf c).reg z = s.reg z := by simp [State.reg]
@[simp] theorem State.skipIf_memRead (s : State) (c : Bool) (p : Nat) : (s.skipIf c).memRead p = s.memRead p := by simp [State.memRead]
@[simp] theorem State.skipIf_key (s : State) (c : Bool) (q : KeyIdx) : (s.skipIf c).key q = s.key q := by simp [State.key]
@[simp] theorem State.skipIf_depth (s : State) (c : Bool) : (s.skipIf c).depth = s.depth := by simp [State.depth]

/-! ### `setIndexFlag` -/

@[simp] theorem State.setIndexFlag_config (s : State) (f : Byte) : (s.setIndexFlag f).config = s.config := by unfold State.setIndexFlag; split <;> rfl
@[simp] theorem State.setIndexFlag_i (s : State) (f : Byte) : (s.setIndexFlag f).i = s.i := by unfold State.setIndexFlag; split <;> rfl
@[simp] theorem State.setIndexFlag_pc (s : State) (f : Byte) : (s.setIndexFlag f).pc = s.pc := by unfold State.setIndexFlag; split <;> rfl
@[simp] theorem State.setIndexFlag_sp (s : State) (f : Byte) : (s.setIndexFlag f).sp = s.sp := by unfold State.setIndexFlag; split <;> rfl
@[simp] theorem State.setIndexFlag_stack (s : State) (f : Byte) : (s.setIndexFlag f).stack = s.stack := by unfold State.setIndexFlag; split <;> rfl
@[simp] theorem State.setIndexFlag_dt (s : State) (f : Byte) : (s.setIndexFlag f).dt = s.dt := by unfold State.setIndexFlag; split <;> rfl
@[simp] theorem State.setIndexFlag_st (s : State) (f : Byte) : (s.setIndexFlag f).st = s.st := by unfold State.setIndexFlag; split <;> rfl
@[simp] theorem State.setIndexFlag_keys (s : State) (f : Byte) : (s.setIndexFlag f).keys = s.keys := by unfold State.setIndexFlag; split <;> rfl
@[simp] theorem State.setIndexFlag_disp (s : State) (f : Byte) : (s.setIndexFlag f).disp = s.disp := by unfold State.setIndexFlag; split <;> rfl
@[simp] theorem State.setIndexFlag_waitingKey (s : State) (f : Byte) : (s.setIndexFlag f).waitingKey = s.waitingKey := by unfold State.setIndexFlag; split <;> rfl
@[simp] theorem State.setIndexFlag_unknownCount (s : State) (f : Byte) : (s.setIndexFlag f).unknownCount = s.unknownCount := by unfold State.setIndexFlag; split <;> rfl
@[simp] theorem State.setIndexFlag_draws (s : State) (f : Byte) : (s.setIndexFlag f).draws = s.draws := by unfold State.setIndexFlag; split <;> rfl
@[simp] theorem State.setIndexFlag_mem (s : State) (f : Byte) : (s.setIndexFlag f).mem = s.mem := by unfold State.setIndexFlag; split <;> rfl
@[simp] theorem State.setIndexFlag_memRead (s : State) (f : Byte) (p : Nat) : (s.setIndexFlag f).memRead p = s.memRead p := by simp [State.memRead]
@[simp] theorem State.setIndexFlag_key (s : State) (f : Byte) (q : KeyIdx) : (s.setIndexFlag f).key q = s.key q := by simp [State.key]
@[simp] theorem State.setIndexFlag_depth (s : State) (f : Byte) : (s.setIndexFlag f).depth = s.depth := by simp [State.depth]

/-! ### `storeBytes` -/

@[simp] theorem State.storeBytes_config (s : State) (a : Nat) (bs : List Byte) : (s.storeBytes a bs).config = s.config := by
  induction bs generalizing s a with
  | nil => rfl
  | cons b rest ih => rw [State.storeBytes, ih]; rfl
@[simp] theorem State.storeBytes_v (s : State) (a : Nat) (bs : List Byte) : (s.storeBytes a bs).v = s.v := by
  induction bs generalizing s a with
  | nil => rfl
  | cons b rest ih => rw [State.storeBytes, ih]; rfl
@[simp] theorem State.storeBytes_i (s : State) (a : Nat) (bs : List Byte) : (s.storeBytes a bs).i = s.i := by
  induction bs generalizing s a with
  | nil => rfl
  | cons b rest ih => rw [State.storeBytes, ih]; rfl
@[simp] theorem State.storeBytes_pc (s : State) (a : Nat) (bs : List Byte) : (s.storeBytes a bs).pc = s.pc := by
  induction bs generalizing s a with
  | nil => rfl
  | cons b rest ih => rw [State.storeBytes, ih]; rfl
@[simp] theorem State.storeBytes_sp (s : State) (a : Nat) (bs : List Byte) : (s.storeBytes a bs).sp = s.sp := by
  induction bs generalizing s a with
  | nil => rfl
  | cons b rest ih => rw [State.storeBytes, ih]; rfl
@[simp] theorem State.storeBytes_stack (s : State) (a : Nat) (bs : List Byte) : (s.storeBytes a bs).stack = s.stack := by
  induction bs generalizing s a with
  | nil => rfl
  | cons b rest ih => rw [State.storeBytes, ih]; rfl
@[simp] theorem State.storeBytes_dt (s : State) (a : Nat) (bs : List Byte) : (s.storeBytes a bs).dt = s.dt := by
  induction bs generalizing s a with
  | nil => rfl
  | cons b rest ih => rw [State.storeBytes, ih]; rfl
@[simp] theorem State.storeBytes_st (s : State) (a : Nat) (bs : List Byte) : (s.storeBytes a bs).st = s.st := by
  induction bs generalizing s a with
  | nil => rfl
  | cons b rest ih => rw [State.storeBytes, ih]; rfl
@[simp] theorem State.storeBytes_keys (s : State) (a : Nat) (bs : List Byte) : (s.storeBytes a bs).keys = s.keys := by
  induction bs generalizing s a with
  | nil => rfl
  | cons b rest ih => rw [State.storeBytes, ih]; rfl
@[simp] theorem State.storeBytes_disp (s : State) (a : Nat) (bs : List Byte) : (s.storeBytes a bs).disp = s.disp := by
  induction bs generalizing s a with
  | nil => rfl
  | cons b rest ih => rw [State.storeBytes, ih]; rfl
@[simp] theorem State.storeBytes_waitingKey (s : State) (a : Nat) (bs : List Byte) : (s.storeBytes a bs).waitingKey = s.waitingKey := by
  induction bs generalizing s a with
  | nil => rfl
  | cons b rest ih => rw [State.storeBytes, ih]; rfl
@[simp] theorem State.storeBytes_unknownCount (s : State) (a : Nat) (bs : List Byte) : (s.storeBytes a bs).unknownCount = s.unknownCount := by
  induction bs generalizing s a with
  | nil => rfl
  | cons b rest ih => rw [State.storeBytes, ih]; rfl
@[simp] theorem State.storeBytes_draws (s : State) (a : Nat) (bs : List Byte) : (s.storeBytes a bs).draws = s.draws := by
  induction bs generalizing s a with
  | nil => rfl
  | cons b rest ih => rw [State.storeBytes, ih]; rfl
@[simp] theorem State.storeBytes_reg (s : State) (a : Nat) (bs : List Byte) (z : RegIdx) : (s.storeBytes a bs).reg z = s.reg z := by simp [State.reg]
@[simp] theorem State.storeBytes_key (s : State) (a : Nat) (bs : List Byte) (q : KeyIdx) : (s.storeBytes a bs).key q = s.key q := by simp [State.key]
@[simp] theorem State.storeBytes_depth (s : State) (a : Nat) (bs : List Byte) : (s.storeBytes a bs).depth = s.depth := by simp [State.depth]

/-! ### `loadRegs` -/

@[simp] theorem State.loadRegs_config (s : State) (base n : Nat) : (s.loadRegs base n).config = s.config := by
  induction n with
  | zero => rfl
  | succ k ih => rw [State.loadRegs]; exact ih
@[simp] theorem State.loadRegs_i (s : State) (base n : Nat) : (s.loadRegs base n).i = s.i := by
  induction n with
  | zero => rfl
  | succ k ih => rw [State.loadRegs]; exact ih
@[simp] theorem State.loadRegs_pc (s : State) (base n : Nat) : (s.loadRegs base n).pc = s.pc := by
  induction n with
  | zero => rfl
  | succ k ih => rw [State.loadRegs]; exact ih
@[simp] theorem State.loadRegs_sp (s : State) (base n : Nat) : (s.loadRegs base n).sp = s.sp := by
  induction n with
  | zero => rfl
  | succ k ih => rw [State.loadRegs]; exact ih
@[simp] theorem State.loadRegs_stack (s : State) (base n : Nat) : (s.loadRegs base n).stack = s.stack := by
  induction n with
  | zero => rfl
  | succ k ih => rw [State.loadRegs]; exact ih
@[simp] theorem State.loadRegs_dt (s : State) (base n : Nat) : (s.loadRegs base n).dt = s.dt := by
  induction n with
  | zero => rfl
  | succ k ih => rw [State.loadRegs]; exact ih
@[simp] theorem State.loadRegs_st (s : State) (base n : Nat) : (s.loadRegs base n).st = s.st := by
  induction n with
  | zero => rfl
  | succ k ih => rw [State.loadRegs]; exact ih
@[simp] theorem State.loadRegs_keys (s : State) (base n : Nat) : (s.loadRegs base n).keys = s.keys := by
  induction n with
  | zero => rfl
  | succ k ih => rw [State.loadRegs]; exact ih
@[simp] theorem State.loadRegs_disp (s : State) (base n : Nat) : (s.loadRegs base n).disp = s.disp := by
  induction n with
  | zero => rfl
  | succ k ih => rw [State.loadRegs]; exact ih
@[simp] theorem State.loadRegs_waitingKey (s : State) (base n : Nat) : (s.loadRegs base n).waitingKey = s.waitingKey := by
  induction n with
  | zero => rfl
  | succ k ih => rw [State.loadRegs]; exact ih
@[simp] theorem State.loadRegs_unknownCount (s : State) (base n : Nat) : (s.loadRegs base n).unknownCount = s.unknownCount := by
  induction n with
  | zero => rfl
  | succ k ih => rw [State.loadRegs]; exact ih
@[simp] theorem State.loadRegs_draws (s : State) (base n : Nat) : (s.loadRegs base n).draws = s.draws := by
  induction n with
  | zero => rfl
  | succ k ih => rw [State.loadRegs]; exact ih
@[simp] theorem State.loadRegs_mem (s : State) (base n : Nat) : (s.loadRegs base n).mem = s.mem := by
  induction n with
  | zero => rfl
  | succ k ih => rw [State.loadRegs]; exact ih
@[simp] theorem State.loadRegs_memRead (s : State) (base n : Nat) (p : Nat) : (s.loadRegs base n).memRead p = s.memRead p := by simp [State.memRead]
@[simp] theorem State.loadRegs_key (s : State) (base n : Nat) (q : KeyIdx) : (s.loadRegs base n).key q = s.key q := by simp [State.key]
@[simp] theorem State.loadRegs_depth (s : State) (base n : Nat) : (s.loadRegs base n).depth = s.depth := by simp [State.depth]

/-! ### The program counter as a number -/

/-- R25: whatever is written, `PC` holds it modulo `0x1000`. -/
theorem State.setPc_pc_toNat (s : State) (t : Nat) : (s.setPc t).pc.toNat = t % 0x1000 := by
  simp only [State.setPc_pc, mask12, BitVec.toNat_ofNat]
  omega

/-- R27: `I` holds what is written modulo `2^16`. -/
theorem State.setI_i_toNat (s : State) (t : Nat) : (s.setI t).i.toNat = t % 0x10000 := by
  simp [BitVec.toNat_ofNat]

/-- R220: the program counter after a skip. -/
theorem State.skipIf_pc (s : State) (c : Bool) :
    (s.skipIf c).pc = if c then BitVec.ofNat 16 (mask12 (s.pc.toNat + 2)) else s.pc := by
  cases c <;> rfl

end Sys2Proof.Machine
end

