-- ==== Sys2Proof/Laws/Ops.lean ====
section
/-! SUPPORT. One lemma per shared operation that says what it does: registers, block transfers, stack, keys. -/

namespace Sys2Proof.Machine

/-! ### Registers (R8, R21) -/

/-- R8: a register write changes the named register and no other. -/
theorem State.reg_setReg (s : State) (x z : RegIdx) (b : Byte) :
    (s.setReg x b).reg z = if z = x then b else s.reg z := by
  simp only [State.reg, State.setReg, Fin.getElem_fin, Vector.getElem_set, Fin.ext_iff]
  split <;> split <;> first | rfl | omega

@[simp] theorem State.reg_setReg_self (s : State) (x : RegIdx) (b : Byte) : (s.setReg x b).reg x = b := by
  simp [State.reg_setReg]

theorem State.reg_setReg_ne (s : State) {x z : RegIdx} (b : Byte) (h : z ≠ x) : (s.setReg x b).reg z = s.reg z := by
  simp [State.reg_setReg, h]

/-! ### Block transfers (R184, R185) -/

@[simp] theorem State.length_regsBelow (s : State) (n : Nat) : (s.regsBelow n).length = n := by
  simp [State.regsBelow]

theorem State.getElem_regsBelow (s : State) (n k : Nat) (h : k < (s.regsBelow n).length) :
    (s.regsBelow n)[k] = s.reg (Fin.ofNat 16 k) := by
  simp [State.regsBelow]

/-- R185: after loading `V[0..n-1]`, each of them holds its memory byte, and every other register is as it was. -/
theorem State.reg_loadRegs (s : State) (base n : Nat) (hn : n ≤ 16) (z : RegIdx) :
    (s.loadRegs base n).reg z = if z.val < n then s.memRead (base + z.val) else s.reg z := by
  induction n with
  | zero => rfl
  | succ k ih =>
    rw [State.loadRegs, State.reg_setReg, ih (by omega), State.loadRegs_memRead]
    have hv : (Fin.ofNat 16 k).val = k := Nat.mod_eq_of_lt (by omega)
    by_cases hz : z = Fin.ofNat 16 k
    · subst hz
      rw [if_pos rfl, if_pos (by omega), hv]
    · have : z.val ≠ k := fun h => hz (Fin.ext (h.trans hv.symm))
      rw [if_neg hz]
      split <;> split <;> first | rfl | omega

/-! ### What an operation changes, as one record update

Each lemma of this part names the one field an operation can change; the `_congr` lemmas say what the new value of that
field depends on. -/

/-- R220: a skip changes `PC` only. -/
theorem State.skipIf_eq (s : State) (c : Bool) :
    s.skipIf c = { s with pc := if c then BitVec.ofNat 16 (mask12 (s.pc.toNat + 2)) else s.pc } := by
  cases c <;> rfl

/-- R181: the flag write of `add I,Vx` changes `V[15]` only, and only where the parameter asks for it. -/
theorem State.setIndexFlag_eq (s : State) (f : Byte) :
    s.setIndexFlag f = { s with v := if s.config.addIVf = .carry12 then s.v.set 15 f else s.v } := by
  unfold State.setIndexFlag
  split <;> rename_i h <;> simp [h, State.setFlag, State.setReg, flagReg]

/-- R61, R64: stored bytes change memory only. -/
theorem State.storeBytes_eq (s : State) (a : Nat) (bs : List Byte) :
    s.storeBytes a bs = { s with mem := (s.storeBytes a bs).mem } := by
  ext1 <;> simp

/-- R61: where bytes are stored, and over what, is all that the new memory depends on; an address counts masked. -/
theorem State.storeBytes_mem_congr {s t : State} {a b : Nat} (bs : List Byte) (hc : t.config = s.config)
    (hm : t.mem = s.mem) (ha : mask12 b = mask12 a) : (t.storeBytes b bs).mem = (s.storeBytes a bs).mem := by
  induction bs generalizing s t a b with
  | nil => exact hm
  | cons v rest ih =>
    refine ih hc ?_ ?_
    · simp only [State.memWrite, Memory.write, hc, hm, ha]
    · simp only [mask12] at ha ⊢
      omega

/-- R185: loaded registers change `V` only. -/
theorem State.loadRegs_eq (s : State) (base n : Nat) :
    s.loadRegs base n = { s with v := (s.loadRegs base n).v } := by
  ext1 <;> simp

/-- Two states hold the same registers when every register reads the same. -/
theorem State.v_ext {s t : State} (h : ∀ z, s.reg z = t.reg z) : s.v = t.v := by
  apply Vector.ext
  intro j hj
  exact h ⟨j, hj⟩

/-- R61: a read depends on memory and the masked address only. -/
theorem State.memRead_congr_state {s t : State} {a b : Nat} (hc : t.config = s.config) (hm : t.mem = s.mem)
    (ha : mask12 b = mask12 a) : t.memRead b = s.memRead a := by
  simp only [State.memRead, Memory.read, hc, hm, ha]

/-! ### The stack (R29) -/

theorem StackDepth.bounds (d : StackDepth) : 0 < d.toNat ∧ d.toNat ≤ 16 := by cases d <;> decide

theorem State.depth_pos (s : State) : 0 < s.depth := (StackDepth.bounds _).1

theorem State.depth_le (s : State) : s.depth ≤ 16 := (StackDepth.bounds _).2

theorem State.spUp_val (s : State) : s.spUp.val = (s.sp.val + 1) % s.depth := by
  have h := Nat.mod_lt (s.sp.val + 1) s.depth_pos
  exact Nat.mod_eq_of_lt (Nat.lt_of_lt_of_le h s.depth_le)

theorem State.spDown_val (s : State) : s.spDown.val = (s.sp.val + s.depth - 1) % s.depth := by
  have h := Nat.mod_lt (s.sp.val + s.depth - 1) s.depth_pos
  exact Nat.mod_eq_of_lt (Nat.lt_of_lt_of_le h s.depth_le)

theorem State.spUp_lt (s : State) : s.spUp.val < s.depth := by
  rw [State.spUp_val]; exact Nat.mod_lt _ s.depth_pos

theorem State.spDown_lt (s : State) : s.spDown.val < s.depth := by
  rw [State.spDown_val]; exact Nat.mod_lt _ s.depth_pos

@[simp] theorem State.stackTop_push (s : State) (w : Word) : (s.push w).stackTop = w := by
  simp [State.stackTop]

/-- R29: a push changes the entry `SP` then indexes, and no other. -/
theorem State.stack_push (s : State) (w : Word) (j : Fin 16) :
    (s.push w).stack[j] = if j = s.spUp then w else s.stack[j] := by
  simp only [State.push_stack, Fin.getElem_fin, Vector.getElem_set, Fin.ext_iff]
  split <;> split <;> first | rfl | omega

/-- R29: `SP` within its range steps up and back down to where it was. -/
theorem State.spDown_push (s : State) (w : Word) (h : s.sp.val < s.depth) : (s.push w).spDown = s.sp := by
  apply Fin.ext
  rw [State.spDown_val, State.push_sp, State.push_depth, State.spUp_val]
  have hd := s.depth_pos
  by_cases hs : s.sp.val + 1 = s.depth
  · rw [hs, Nat.mod_self, Nat.zero_add, Nat.mod_eq_of_lt (by omega)]; omega
  · rw [Nat.mod_eq_of_lt (by omega : s.sp.val + 1 < s.depth),
      show s.sp.val + 1 + s.depth - 1 = s.sp.val + s.depth by omega, Nat.add_mod_right, Nat.mod_eq_of_lt h]

/-! ### Keys (R112) -/

theorem State.firstPressed_eq_none (s : State) : s.firstPressed = none ↔ ∀ k, s.key k = false := by
  simp [State.firstPressed]

theorem State.firstPressed_pressed (s : State) {k : KeyIdx} (h : s.firstPressed = some k) : s.key k = true := by
  simpa using List.find?_some h

end Sys2Proof.Machine
end

