-- ==== Sys2Proof/Laws/Exec.lean ====
section
/-! SUPPORT. The equation of each meaning: what `exec` answers for one constructor, as the shared operations say it. -/

namespace Sys2Proof.Machine

theorem exec_cls (s : State) :
    exec .cls s = .next (s.setDisp blankDisplay) := rfl

theorem exec_ret (s : State) :
    exec .ret s = .next (s.pop.setPc s.stackTop.toNat) := rfl

theorem exec_sys (nnn : Addr) (s : State) :
    exec (.sys nnn) s = .next s := rfl

theorem exec_jp (nnn : Addr) (s : State) :
    exec (.jp nnn) s = .next (s.setPc (addrImm nnn)) := rfl

theorem exec_call (nnn : Addr) (s : State) :
    exec (.call nnn) s = .next ((s.push s.pc).setPc (addrImm nnn)) := rfl

theorem exec_seVxKk (x : RegIdx) (kk : Byte) (s : State) :
    exec (.seVxKk x kk) s = .next (s.skipIf (s.reg x == kk)) := rfl

theorem exec_sneVxKk (x : RegIdx) (kk : Byte) (s : State) :
    exec (.sneVxKk x kk) s = .next (s.skipIf (s.reg x != kk)) := rfl

theorem exec_seVxVy (x : RegIdx) (y : RegIdx) (s : State) :
    exec (.seVxVy x y) s = .next (s.skipIf (s.reg x == s.reg y)) := rfl

theorem exec_ldVxKk (x : RegIdx) (kk : Byte) (s : State) :
    exec (.ldVxKk x kk) s = .next (s.setReg x kk) := rfl

theorem exec_addVxKk (x : RegIdx) (kk : Byte) (s : State) :
    exec (.addVxKk x kk) s = .next (s.setReg x (addData (s.reg x) kk)) := rfl

theorem exec_ldVxVy (x : RegIdx) (y : RegIdx) (s : State) :
    exec (.ldVxVy x y) s = .next (s.setReg x (s.reg y)) := rfl

theorem exec_orVxVy (x : RegIdx) (y : RegIdx) (s : State) :
    exec (.orVxVy x y) s = .next (s.setReg x (s.reg x ||| s.reg y)) := rfl

theorem exec_andVxVy (x : RegIdx) (y : RegIdx) (s : State) :
    exec (.andVxVy x y) s = .next (s.setReg x (s.reg x &&& s.reg y)) := rfl

theorem exec_xorVxVy (x : RegIdx) (y : RegIdx) (s : State) :
    exec (.xorVxVy x y) s = .next (s.setReg x (s.reg x ^^^ s.reg y)) := rfl

theorem exec_addVxVy (x : RegIdx) (y : RegIdx) (s : State) :
    exec (.addVxVy x y) s = .next (s.setRegFlag x (addData (s.reg x) (s.reg y)) (addCarry (s.reg x) (s.reg y))) := rfl

theorem exec_subVxVy (x : RegIdx) (y : RegIdx) (s : State) :
    exec (.subVxVy x y) s = .next (s.setRegFlag x (subData (s.reg x) (s.reg y)) (subNotBorrow (s.reg x) (s.reg y))) := rfl

theorem exec_shrVxVy (x : RegIdx) (y : RegIdx) (s : State) :
    exec (.shrVxVy x y) s = .next (s.setRegFlag x (shrData (s.reg y)) (shrOut (s.reg y))) := rfl

theorem exec_submVxVy (x : RegIdx) (y : RegIdx) (s : State) :
    exec (.submVxVy x y) s = .next (s.setRegFlag x (subData (s.reg y) (s.reg x)) (subNotBorrow (s.reg y) (s.reg x))) := rfl

theorem exec_shlVxVy (x : RegIdx) (y : RegIdx) (s : State) :
    exec (.shlVxVy x y) s = .next (s.setRegFlag x (shlData (s.reg y)) (shlOut (s.reg y))) := rfl

theorem exec_sneVxVy (x : RegIdx) (y : RegIdx) (s : State) :
    exec (.sneVxVy x y) s = .next (s.skipIf (s.reg x != s.reg y)) := rfl

theorem exec_ldINnn (nnn : Addr) (s : State) :
    exec (.ldINnn nnn) s = .next (s.setI (addrImm nnn)) := rfl

theorem exec_jpV0 (nnn : Addr) (s : State) :
    exec (.jpV0 nnn) s = .next (s.setPc (s.jumpV0Target nnn)) := rfl

theorem exec_rnd (x : RegIdx) (kk : Byte) (s : State) :
    exec (.rnd x kk) s = .next (s.takeDraw.setReg x (s.nextDraw &&& kk)) := rfl

theorem exec_drw (x : RegIdx) (y : RegIdx) (n : Fin 16) (s : State) :
    exec (.drw x y n) s = .next ((s.setDisp (s.blit x y n).disp).setFlag (flagByte (s.blit x y n).hit)) := rfl

theorem exec_skp (x : RegIdx) (s : State) :
    exec (.skp x) s = .next (s.skipIf (s.key (s.keyOperand x))) := rfl

theorem exec_sknp (x : RegIdx) (s : State) :
    exec (.sknp x) s = .next (s.skipIf (!s.key (s.keyOperand x))) := rfl

theorem exec_ldVxDT (x : RegIdx) (s : State) :
    exec (.ldVxDT x) s = .next (s.setReg x s.dt) := rfl

theorem exec_ldVxK (x : RegIdx) (s : State) :
    exec (.ldVxK x) s = .next (s.setWaiting (some x)) := rfl

theorem exec_ldDTVx (x : RegIdx) (s : State) :
    exec (.ldDTVx x) s = .next (s.setDt (s.reg x)) := rfl

theorem exec_ldSTVx (x : RegIdx) (s : State) :
    exec (.ldSTVx x) s = .next (s.setSt (s.reg x)) := rfl

theorem exec_addIVx (x : RegIdx) (s : State) :
    exec (.addIVx x) s = .next ((s.setI (indexSum s.i (s.reg x))).setIndexFlag (indexCarry s.i (s.reg x))) := rfl

theorem exec_ldFVx (x : RegIdx) (s : State) :
    exec (.ldFVx x) s = .next (s.setI (s.glyphAddr x)) := rfl

theorem exec_ldBVx (x : RegIdx) (s : State) :
    exec (.ldBVx x) s = .next (s.storeBytes (s.indexAddr 0) (bcdDigits (s.reg x))) := rfl

theorem exec_ldMemVx (x : RegIdx) (s : State) :
    exec (.ldMemVx x) s = .next ((s.storeBytes (s.indexAddr 0) (s.regsBelow (x.val + 1))).setI (s.indexAfterBlock x)) := rfl

theorem exec_ldVxMem (x : RegIdx) (s : State) :
    exec (.ldVxMem x) s = .next ((s.loadRegs (s.indexAddr 0) (x.val + 1)).setI (s.indexAfterBlock x)) := rfl

end Sys2Proof.Machine
end

