-- ==== Sys2Proof/Laws/PerInstr.lean ====
section
/-! SUPPORT. One statement per instruction, as syntax: the class nibble of its encoding (spec/30_encoding.md R81 `u`, R85;
PRESUMED by the spec but for `or` and `and`, log entry 6). -/

namespace Sys2Proof.Laws

/-- The class nibble `u` of an instruction, as the map of R85 lists it. -/
def ClassNibble.nibbleOf (i : Instr) : BitVec 4 :=
  match i with
  | .cls | .ret | .sys _ => 0x0
  | .jp _ => 0x1
  | .call _ => 0x2
  | .seVxKk _ _ => 0x3
  | .sneVxKk _ _ => 0x4
  | .seVxVy _ _ => 0x5
  | .ldVxKk _ _ => 0x6
  | .addVxKk _ _ => 0x7
  | .ldVxVy _ _ | .orVxVy _ _ | .andVxVy _ _ | .xorVxVy _ _ | .addVxVy _ _
  | .subVxVy _ _ | .shrVxVy _ _ | .submVxVy _ _ | .shlVxVy _ _ => 0x8
  | .sneVxVy _ _ => 0x9
  | .ldINnn _ => 0xA
  | .jpV0 _ => 0xB
  | .rnd _ _ => 0xC
  | .drw _ _ _ => 0xD
  | .skp _ | .sknp _ => 0xE
  | .ldVxDT _ | .ldVxK _ | .ldDTVx _ | .ldSTVx _ | .addIVx _ | .ldFVx _ | .ldBVx _ | .ldMemVx _ | .ldVxMem _ => 0xF

/-- R81, R85: bits 15..12 of the encoding are the class nibble of the instruction's row. -/
def ClassNibble.Statement (i : Instr) : Prop := (fieldsOf (encode i)).u = ClassNibble.nibbleOf i

theorem ClassNibble.cls : ClassNibble.Statement (.cls) := by
  simp [ClassNibble.Statement, ClassNibble.nibbleOf, encode]

theorem ClassNibble.ret : ClassNibble.Statement (.ret) := by
  simp [ClassNibble.Statement, ClassNibble.nibbleOf, encode]

theorem ClassNibble.sys (nnn : Addr) : ClassNibble.Statement (.sys nnn) := by
  simp [ClassNibble.Statement, ClassNibble.nibbleOf, encode]

theorem ClassNibble.jp (nnn : Addr) : ClassNibble.Statement (.jp nnn) := by
  simp [ClassNibble.Statement, ClassNibble.nibbleOf, encode]

theorem ClassNibble.call (nnn : Addr) : ClassNibble.Statement (.call nnn) := by
  simp [ClassNibble.Statement, ClassNibble.nibbleOf, encode]

theorem ClassNibble.seVxKk (x : RegIdx) (kk : Byte) : ClassNibble.Statement (.seVxKk x kk) := by
  simp [ClassNibble.Statement, ClassNibble.nibbleOf, encode]

theorem ClassNibble.sneVxKk (x : RegIdx) (kk : Byte) : ClassNibble.Statement (.sneVxKk x kk) := by
  simp [ClassNibble.Statement, ClassNibble.nibbleOf, encode]

theorem ClassNibble.seVxVy (x y : RegIdx) : ClassNibble.Statement (.seVxVy x y) := by
  simp [ClassNibble.Statement, ClassNibble.nibbleOf, encode]

theorem ClassNibble.ldVxKk (x : RegIdx) (kk : Byte) : ClassNibble.Statement (.ldVxKk x kk) := by
  simp [ClassNibble.Statement, ClassNibble.nibbleOf, encode]

theorem ClassNibble.addVxKk (x : RegIdx) (kk : Byte) : ClassNibble.Statement (.addVxKk x kk) := by
  simp [ClassNibble.Statement, ClassNibble.nibbleOf, encode]

theorem ClassNibble.ldVxVy (x y : RegIdx) : ClassNibble.Statement (.ldVxVy x y) := by
  simp [ClassNibble.Statement, ClassNibble.nibbleOf, encode]

theorem ClassNibble.orVxVy (x y : RegIdx) : ClassNibble.Statement (.orVxVy x y) := by
  simp [ClassNibble.Statement, ClassNibble.nibbleOf, encode]

theorem ClassNibble.andVxVy (x y : RegIdx) : ClassNibble.Statement (.andVxVy x y) := by
  simp [ClassNibble.Statement, ClassNibble.nibbleOf, encode]

theorem ClassNibble.xorVxVy (x y : RegIdx) : ClassNibble.Statement (.xorVxVy x y) := by
  simp [ClassNibble.Statement, ClassNibble.nibbleOf, encode]

theorem ClassNibble.addVxVy (x y : RegIdx) : ClassNibble.Statement (.addVxVy x y) := by
  simp [ClassNibble.Statement, ClassNibble.nibbleOf, encode]

theorem ClassNibble.subVxVy (x y : RegIdx) : ClassNibble.Statement (.subVxVy x y) := by
  simp [ClassNibble.Statement, ClassNibble.nibbleOf, encode]

theorem ClassNibble.shrVxVy (x y : RegIdx) : ClassNibble.Statement (.shrVxVy x y) := by
  simp [ClassNibble.Statement, ClassNibble.nibbleOf, encode]

theorem ClassNibble.submVxVy (x y : RegIdx) : ClassNibble.Statement (.submVxVy x y) := by
  simp [ClassNibble.Statement, ClassNibble.nibbleOf, encode]

theorem ClassNibble.shlVxVy (x y : RegIdx) : ClassNibble.Statement (.shlVxVy x y) := by
  simp [ClassNibble.Statement, ClassNibble.nibbleOf, encode]

theorem ClassNibble.sneVxVy (x y : RegIdx) : ClassNibble.Statement (.sneVxVy x y) := by
  simp [ClassNibble.Statement, ClassNibble.nibbleOf, encode]

theorem ClassNibble.ldINnn (nnn : Addr) : ClassNibble.Statement (.ldINnn nnn) := by
  simp [ClassNibble.Statement, ClassNibble.nibbleOf, encode]

theorem ClassNibble.jpV0 (nnn : Addr) : ClassNibble.Statement (.jpV0 nnn) := by
  simp [ClassNibble.Statement, ClassNibble.nibbleOf, encode]

theorem ClassNibble.rnd (x : RegIdx) (kk : Byte) : ClassNibble.Statement (.rnd x kk) := by
  simp [ClassNibble.Statement, ClassNibble.nibbleOf, encode]

theorem ClassNibble.drw (x y : RegIdx) (n : Fin 16) : ClassNibble.Statement (.drw x y n) := by
  simp [ClassNibble.Statement, ClassNibble.nibbleOf, encode]

theorem ClassNibble.skp (x : RegIdx) : ClassNibble.Statement (.skp x) := by
  simp [ClassNibble.Statement, ClassNibble.nibbleOf, encode]

theorem ClassNibble.sknp (x : RegIdx) : ClassNibble.Statement (.sknp x) := by
  simp [ClassNibble.Statement, ClassNibble.nibbleOf, encode]

theorem ClassNibble.ldVxDT (x : RegIdx) : ClassNibble.Statement (.ldVxDT x) := by
  simp [ClassNibble.Statement, ClassNibble.nibbleOf, encode]

theorem ClassNibble.ldVxK (x : RegIdx) : ClassNibble.Statement (.ldVxK x) := by
  simp [ClassNibble.Statement, ClassNibble.nibbleOf, encode]

theorem ClassNibble.ldDTVx (x : RegIdx) : ClassNibble.Statement (.ldDTVx x) := by
  simp [ClassNibble.Statement, ClassNibble.nibbleOf, encode]

theorem ClassNibble.ldSTVx (x : RegIdx) : ClassNibble.Statement (.ldSTVx x) := by
  simp [ClassNibble.Statement, ClassNibble.nibbleOf, encode]

theorem ClassNibble.addIVx (x : RegIdx) : ClassNibble.Statement (.addIVx x) := by
  simp [ClassNibble.Statement, ClassNibble.nibbleOf, encode]

theorem ClassNibble.ldFVx (x : RegIdx) : ClassNibble.Statement (.ldFVx x) := by
  simp [ClassNibble.Statement, ClassNibble.nibbleOf, encode]

theorem ClassNibble.ldBVx (x : RegIdx) : ClassNibble.Statement (.ldBVx x) := by
  simp [ClassNibble.Statement, ClassNibble.nibbleOf, encode]

theorem ClassNibble.ldMemVx (x : RegIdx) : ClassNibble.Statement (.ldMemVx x) := by
  simp [ClassNibble.Statement, ClassNibble.nibbleOf, encode]

theorem ClassNibble.ldVxMem (x : RegIdx) : ClassNibble.Statement (.ldVxMem x) := by
  simp [ClassNibble.Statement, ClassNibble.nibbleOf, encode]

end Sys2Proof.Laws
end

