-- ==== Sys2Proof/Laws/Step.lean ====
section
/-! SUPPORT. What a Step can do, said once (spec/40_step_driver.md R110 to R116): proofs about every Step start from
`step_cases`. -/

namespace Sys2Proof.Machine

/-- R110: a Step that answers a next state is a key-wait poll, the instruction fetched, or the unknown-opcode path. -/
theorem step_cases {s t : State} (h : step s = .next t) :
    (∃ w, s.waitingKey = some w ∧ t = s.pollKey w) ∨
    (s.waitingKey = none ∧ ∃ i, decode s.fetch = .ok i ∧ exec i s.advance = .next t) ∨
    (s.waitingKey = none ∧ ∃ e, decode s.fetch = .error e ∧ t = s.advance.countUnknown) := by
  unfold step at h
  split at h
  · rename_i w hw
    injection h with h
    exact .inl ⟨w, hw, h.symm⟩
  · rename_i hw
    unfold State.runFetched at h
    split at h
    · rename_i i hi
      exact .inr (.inl ⟨hw, i, hi, h⟩)
    · rename_i e he
      injection h with h
      exact .inr (.inr ⟨hw, e, he, h.symm⟩)

/-- R111, R112: a poll changes nothing, or writes a pressed key's number and ends the wait. -/
theorem State.pollKey_cases (s : State) (w : RegIdx) :
    ((∀ k, s.key k = false) ∧ s.pollKey w = s) ∨
    ∃ k, s.firstPressed = some k ∧ s.key k = true ∧
      s.pollKey w = (s.setReg w (BitVec.ofNat 8 k.val)).setWaiting none := by
  unfold State.pollKey
  split
  · rename_i h
    exact .inl ⟨s.firstPressed_eq_none.mp h, rfl⟩
  · rename_i k h
    exact .inr ⟨k, h, s.firstPressed_pressed h, rfl⟩

/-- R114: the advance is a write of `PC`. -/
theorem State.advance_eq (s : State) : s.advance = s.setPc (s.pc.toNat + 2) := rfl

/-- R114: after the advance, `PC` is below `0x1000`. -/
theorem State.advance_pc_lt (s : State) : s.advance.pc.toNat < 0x1000 := by
  rw [State.advance_eq, State.setPc_pc_toNat]
  omega

end Sys2Proof.Machine
end

