-- ==== Sys2Proof/Tests/Slice0.lean ====
section
/-! SUPPORT. The model's own tests. Expected results are those of spec/95_test_vectors.md (a vector's name stands in the
test's name or comment) and of the examples of spec/30_encoding.md R85 and R90. Then one witness per hypothesis of the
statements: a state and operands that meet it. -/

namespace Sys2Proof.Tests

open Sys2Proof Sys2Proof.Machine

/-- The reset state with one opcode at `0x200`. -/
def at200 (w : Word) : State := State.reset.placeWord w

/-- `p` holds of the state after one Step. -/
def stepped (s : State) (p : State → Bool) : Bool :=
  match Sys2Proof.Machine.step s with
  | .next t => p t
  | .fault _ => false
  | .refused _ => false

/-- The bytes of memory at `a`, `a + 1`, … . -/
def bytesAt (s : State) (a n : Nat) : List Byte := (List.range n).map (fun k => s.memRead (a + k))

/-- The lit pixels of one row. -/
def litColumns (s : State) (r : Fin 32) : List (Fin 64) := (List.finRange 64).filter (fun c => s.disp.pixel r c)

/-- The reset state with other parameters. -/
def withAddIVf (s : State) (p : AddIVf) : State := { s with config := { s.config with addIVf := p } }

def withIncrement (s : State) (b : Bool) : State := { s with config := { s.config with ldstIncrementsI := b } }

def withDepth (s : State) (d : StackDepth) : State := { s with config := { s.config with stackDepth := d } }

/-! ## WellFormed and the assembler refuse ill-formed terms (R85 row 3, R90) -/

theorem test_wellFormed_sys_refuses_cls : Instr.wellFormed (.sys 0x0E0) = false := by decide
theorem test_wellFormed_sys_refuses_ret : Instr.wellFormed (.sys 0x0EE) = false := by decide
theorem test_wellFormed_sys_accepts_neighbours :
    Instr.wellFormed (.sys 0x0E1) = true ∧ Instr.wellFormed (.sys 0x000) = true := by decide
theorem test_assemble_refuses_wide_byte : assemble ⟨.ld, [.v 1, .kk 0x100]⟩ = none := by decide
theorem test_assemble_refuses_wide_address : assemble ⟨.jp, [.nnn 0x1000]⟩ = none := by decide
theorem test_assemble_refuses_wide_rows : assemble ⟨.drw, [.v 1, .v 2, .rows 0x10]⟩ = none := by decide
theorem test_assemble_refuses_register_16 : assemble ⟨.ld, [.v 16, .kk 0]⟩ = none := by decide
theorem test_assemble_refuses_sys_of_cls : assemble ⟨.sys, [.nnn 0x0E0]⟩ = none := by decide

/-! ## Decoding: every row of R85, the word written out from its pattern -/

theorem test_decode_class_0 :
    decode 0x00E0 = .ok .cls ∧ decode 0x00EE = .ok .ret ∧ decode 0x0123 = .ok (.sys 0x123) := by decide
theorem test_decode_jumps :
    decode 0x1204 = .ok (.jp 0x204) ∧ decode 0x2210 = .ok (.call 0x210) ∧ decode 0xBFFF = .ok (.jpV0 0xFFF) := by decide
theorem test_decode_skips :
    decode 0x3A42 = .ok (.seVxKk 0xA 0x42) ∧ decode 0x4B17 = .ok (.sneVxKk 0xB 0x17) ∧
    decode 0x5120 = .ok (.seVxVy 1 2) ∧ decode 0x9120 = .ok (.sneVxVy 1 2) ∧ decode 0xE39E = .ok (.skp 3) ∧
    decode 0xE3A1 = .ok (.sknp 3) := by decide
theorem test_decode_immediates :
    decode 0x672A = .ok (.ldVxKk 7 0x2A) ∧ decode 0x71FF = .ok (.addVxKk 1 0xFF) ∧ decode 0xC30F = .ok (.rnd 3 0x0F) := by
  decide
theorem test_decode_class_8_low :
    decode 0x8120 = .ok (.ldVxVy 1 2) ∧ decode 0x8121 = .ok (.orVxVy 1 2) ∧ decode 0x8122 = .ok (.andVxVy 1 2) ∧
    decode 0x8123 = .ok (.xorVxVy 1 2) ∧ decode 0x8344 = .ok (.addVxVy 3 4) := by decide
theorem test_decode_class_8_high :
    decode 0x8AB5 = .ok (.subVxVy 0xA 0xB) ∧ decode 0x8126 = .ok (.shrVxVy 1 2) ∧ decode 0x8127 = .ok (.submVxVy 1 2) ∧
    decode 0x812E = .ok (.shlVxVy 1 2) := by decide
theorem test_decode_display : decode 0xD125 = .ok (.drw 1 2 5) := by decide
theorem test_decode_index :
    decode 0xA300 = .ok (.ldINnn 0x300) ∧ decode 0xF21E = .ok (.addIVx 2) ∧ decode 0xF029 = .ok (.ldFVx 0) ∧
    decode 0xF133 = .ok (.ldBVx 1) ∧ decode 0xFF55 = .ok (.ldMemVx 0xF) ∧ decode 0xF265 = .ok (.ldVxMem 2) := by decide
theorem test_decode_timers_keys :
    decode 0xF507 = .ok (.ldVxDT 5) ∧ decode 0xF20A = .ok (.ldVxK 2) ∧ decode 0xF515 = .ok (.ldDTVx 5) ∧
    decode 0xF618 = .ok (.ldSTVx 6) := by decide

/-- One word of each family bit by bit: `u x y p` of its pattern in R85. -/
theorem test_decode_bit_by_bit :
    decode 0b0010001000010000 = .ok (.call 0x210) ∧ decode 0b1000001101000100 = .ok (.addVxVy 3 4) ∧
    decode 0b1101000100100101 = .ok (.drw 1 2 5) ∧ decode 0b1111111101010101 = .ok (.ldMemVx 0xF) ∧
    decode 0b1111010100000111 = .ok (.ldVxDT 5) ∧ decode 0b1110001110011110 = .ok (.skp 3) := by decide

/-- R86 and section 2.1: unknown words, one of each class. -/
theorem test_decode_unknown :
    decode 0x5121 = .error (.unknownOpcode 0x5121) ∧ decode 0x8AB8 = .error (.unknownOpcode 0x8AB8) ∧
    decode 0x9121 = .error (.unknownOpcode 0x9121) ∧ decode 0xE09F = .error (.unknownOpcode 0xE09F) ∧
    decode 0xFFFF = .error (.unknownOpcode 0xFFFF) := by decide

/-- Section 2.1, row `0xD125`. -/
theorem test_fields_D125 : fieldsOf 0xD125 = ⟨0xD, 1, 2, 5, 0x25, 0x125⟩ := by decide

/-- R62: the first byte is the high one; the bytes after the opcode are left. -/
theorem test_decodeBytes : decodeBytes [0xD1, 0x25, 0xAA] = .ok (.drw 1 2 5, [0xAA]) := by decide
theorem test_decodeBytes_truncated : decodeBytes [0xD1] = .error .truncated ∧ decodeBytes [] = .error .truncated := by
  decide
theorem test_decodeTableWord :
    decodeTableWord 16 0x8344 = some (.addVxVy 3 4) ∧ decodeTableWord 16 0x5121 = none := by decide

/-- R90: the examples, as text and as words. -/
theorem test_examples_R90_text :
    (spell (.addVxVy 3 4)).text = "add V3,V4" ∧ (spell (.drw 1 2 5)).text = "drw V1,V2,5" ∧
    (spell (.ldVxKk 7 0x2A)).text = "ld V7,0x2A" ∧ (spell (.jp 0x204)).text = "jp 0x204" ∧
    (spell (.ldMemVx 0xF)).text = "ld [I],VF" := by decide
theorem test_examples_R90_words :
    encode (.addVxVy 3 4) = 0x8344 ∧ encode (.drw 1 2 5) = 0xD125 ∧ encode (.ldVxKk 7 0x2A) = 0x672A ∧
    encode (.jp 0x204) = 0x1204 ∧ encode (.ldMemVx 0xF) = 0xFF55 := by decide

/-! ## Arithmetic and logic: one Step (section 2.2) -/

theorem test_ldVxKk_AR1 : stepped (at200 0x6F12) (fun t => t.reg 15 == 0x12) = true := by decide
theorem test_addVxKk_AR2 :
    stepped (((at200 0x7101).setReg 1 0xFF).setReg 15 0x55) (fun t => t.reg 1 == 0 && t.reg 15 == 0x55) = true := by decide
theorem test_ldVxVy_AR4 : stepped ((at200 0x8F10).setReg 1 0x42) (fun t => t.reg 15 == 0x42) = true := by decide
theorem test_orVxVy_AR5 :
    stepped ((((at200 0x8121).setReg 1 0x0F).setReg 2 0xF0).setReg 15 0x77) (fun t => t.reg 1 == 0xFF && t.reg 15 == 0x77)
      = true := by decide
theorem test_andVxVy_AR6 :
    stepped ((((at200 0x8122).setReg 1 0x3C).setReg 2 0x0F).setReg 15 0x77) (fun t => t.reg 1 == 0x0C && t.reg 15 == 0x77)
      = true := by decide
theorem test_xorVxVy_AR7 : stepped ((at200 0x8113).setReg 1 0x3C) (fun t => t.reg 1 == 0) = true := by decide
theorem test_addVxVy_AR9 :
    stepped (((at200 0x8124).setReg 1 0x80).setReg 2 0x80) (fun t => t.reg 1 == 0 && t.reg 15 == 1) = true := by decide
theorem test_addVxVy_AR12 : stepped ((at200 0x8FF4).setReg 15 0x7F) (fun t => t.reg 15 == 0) = true := by decide
theorem test_subVxVy_AR14 :
    stepped (((at200 0x8125).setReg 1 5).setReg 2 5) (fun t => t.reg 1 == 0 && t.reg 15 == 1) = true := by decide
theorem test_subVxVy_W2 :
    stepped (((at200 0x8015).setReg 0 1).setReg 1 2) (fun t => t.reg 0 == 0xFF && t.reg 15 == 0) = true := by decide
theorem test_shrVxVy_AR19 :
    stepped (((at200 0x8126).setReg 1 0xAA).setReg 2 4) (fun t => t.reg 1 == 2 && t.reg 15 == 0) = true := by decide
theorem test_shrVxVy_AR22 : stepped ((at200 0x8F26).setReg 2 3) (fun t => t.reg 15 == 1) = true := by decide
theorem test_submVxVy_AR24 :
    stepped (((at200 0x8127).setReg 1 5).setReg 2 0xA) (fun t => t.reg 1 == 5 && t.reg 15 == 1) = true := by decide
theorem test_submVxVy_AR25 :
    stepped (((at200 0x8127).setReg 1 0xA).setReg 2 5) (fun t => t.reg 1 == 0xFB && t.reg 15 == 0) = true := by decide
theorem test_shlVxVy_AR28 :
    stepped ((at200 0x812E).setReg 2 0x7F) (fun t => t.reg 1 == 0xFE && t.reg 15 == 0) = true := by decide
theorem test_shlVxVy_AR27 :
    stepped ((at200 0x812E).setReg 2 0x80) (fun t => t.reg 1 == 0 && t.reg 15 == 1) = true := by decide

/-- AR31, for every draw. -/
theorem test_rnd_AR31 (s : State) : ∃ t, exec (.rnd 1 0x00) s = .next t ∧ t.reg 1 = 0 :=
  ⟨_, exec_rnd 1 0 s, by simp⟩

/-! ## Display (sections 1 and 2.3) -/

theorem test_cls_DS1 :
    stepped (((at200 0x00E0).setDisp ((blankDisplay.toggle 0 0).toggle 5 9)).setReg 15 0x33)
      (fun t => t.disp == blankDisplay && t.reg 15 == 0x33) = true := by decide

/-- W3, the first draw: columns 63 and 0 to 6. -/
theorem test_drw_W3 :
    stepped ((((at200 0xD011).setReg 0 63).setI 0x300).memWrite 0x300 0xFF)
      (fun t => litColumns t 0 == [0, 1, 2, 3, 4, 5, 6, 63] && t.reg 15 == 0) = true := by decide

/-- DS8: a collision, with the most significant bit leftmost. -/
theorem test_drw_DS8 :
    stepped (((((at200 0xD121).setDisp (blankDisplay.toggle 0 0)).setI 0x300).memWrite 0x300 0xC0))
      (fun t => litColumns t 0 == [1] && t.reg 15 == 1) = true := by decide

/-- R34 with decision D8: the top-left pixel is bit 7 of byte 0. -/
theorem test_displayByte_top_left :
    displayByte (blankDisplay.toggle 0 0) 0 = 0x80 ∧ displayByte (blankDisplay.toggle 1 15) 9 = 0x01 := by decide

/-! ## Memory and index (section 2.4) -/

theorem test_ldINnn_MI1 : stepped (at200 0xAFFF) (fun t => t.i == 0x0FFF) = true := by decide
theorem test_addIVx_MI5 :
    stepped (((at200 0xFF1E).setI 0xFF0).setReg 15 0x10) (fun t => t.i == 0x1000 && t.reg 15 == 1) = true := by decide
theorem test_addIVx_MI7 :
    stepped (withAddIVf (((at200 0xFF1E).setI 0xFF0).setReg 15 0x10) .unchanged)
      (fun t => t.i == 0x1000 && t.reg 15 == 0x10) = true := by decide
theorem test_ldFVx_MI10 : stepped ((at200 0xF129).setReg 1 0x1A) (fun t => t.i == 0x032) = true := by decide
theorem test_ldBVx_MI12 :
    stepped (((at200 0xF133).setReg 1 0xFF).setI 0x300) (fun t => bytesAt t 0x300 3 == [2, 5, 5]) = true := by decide
theorem test_ldBVx_MI15 :
    stepped (((at200 0xF133).setReg 1 0x7B).setI 0xFFE)
      (fun t => t.memRead 0xFFE == 1 && t.memRead 0xFFF == 2 && t.memRead 0 == 3 && t.i == 0xFFE) = true := by decide

/-- As MI17, with `V0`, `V1`, `VF` the registers that are not 0. -/
theorem test_ldMemVx_MI17 :
    stepped (((((at200 0xFF55).setReg 0 0xA0).setReg 8 0xA8).setReg 15 0xAF).setI 0xFF8)
      (fun t => t.memRead 0xFF8 == 0xA0 && t.memRead 0xFFF == 0 && t.memRead 0 == 0xA8 && t.memRead 7 == 0xAF &&
        t.memRead 8 == 0x20 && t.i == 0x1008) = true := by decide
theorem test_ldMemVx_MI18 :
    stepped (withIncrement (((at200 0xF055).setReg 0 0xAA).setI 0x300) false)
      (fun t => t.memRead 0x300 == 0xAA && t.i == 0x300) = true := by decide
theorem test_ldVxMem_MI20 :
    stepped ((((at200 0xF265).storeBytes 0x300 [1, 5, 7, 9]).setReg 3 0x33).setI 0x300)
      (fun t => t.reg 0 == 1 && t.reg 1 == 5 && t.reg 2 == 7 && t.reg 3 == 0x33 && t.i == 0x303) = true := by decide

/-! ## Timers and keys (section 2.5) -/

theorem test_ldDTVx_TK1 : stepped ((at200 0xF115).setReg 1 3) (fun t => t.dt == 3) = true := by decide
theorem test_ldVxDT_TK4 :
    stepped ((at200 0xF307).setDt 0x2A) (fun t => t.reg 3 == 0x2A && t.dt == 0x2A) = true := by decide
theorem test_ldSTVx_TK5 : stepped ((at200 0xF118).setReg 1 1) (fun t => t.st == 1 && t.sound) = true := by decide
theorem test_ldVxK_TK8 :
    stepped ((at200 0xF20A).setKey 9 true) (fun t => t.waitingKey == some 2 && t.pc == 0x202 && t.reg 2 == 0) = true := by
  decide
theorem test_keyWait_resolves_TK10 :
    stepped ((((at200 0x6101).setKey 0xC true).setKey 3 true).setWaiting (some 5))
      (fun t => t.reg 5 == 3 && t.waitingKey == none && t.pc == 0x200 && t.reg 1 == 0) = true := by decide
theorem test_keyWait_poll_W6 :
    stepped ((at200 0x6101).setWaiting (some 5)) (fun t => t == (at200 0x6101).setWaiting (some 5)) = true := by decide
theorem test_tickTimers_TK7 :
    ((State.reset.setDt 1).setSt 5).tickTimers = (State.reset.setDt 0).setSt 4 := by decide
theorem test_tickTimers_floor_W7 : State.reset.tickTimers = State.reset := by decide
theorem test_abortWait_TK12 :
    (((State.reset.setReg 5 0x77).setWaiting (some 5)).abortWait) = State.reset.setReg 5 0x77 := by decide

/-! ## Control flow (section 2.6) -/

theorem test_jp_CF1 : stepped (at200 0x1203) (fun t => t.pc == 0x203) = true := by decide
theorem test_jp_CF2_ends : (at200 0x1200).ended = true ∧ (at200 0x1202).ended = false := by decide
theorem test_jpV0_CF3 : stepped ((at200 0xBFFF).setReg 0 3) (fun t => t.pc == 0x002) = true := by decide
theorem test_ret_CF5 : stepped (at200 0x00EE) (fun t => t.pc == 0 && t.sp == 15) = true := by decide
theorem test_call_CF16 :
    stepped ((State.reset.setPc 0x204).placeWord 0x2210)
      (fun t => t.pc == 0x210 && t.sp == 1 && t.stack[1] == 0x206) = true := by decide
theorem test_seVxKk_CF6 : stepped ((State.reset.setPc 0xFFE).placeWord 0x3000) (fun t => t.pc == 0x002) = true := by decide
theorem test_seVxKk_CF7 : stepped ((at200 0x3000).setReg 0 1) (fun t => t.pc == 0x202) = true := by decide
theorem test_sneVxKk_CF8 : stepped ((at200 0x4000).setReg 0 1) (fun t => t.pc == 0x204) = true := by decide
theorem test_seVxVy_CF9 : stepped (at200 0x5110) (fun t => t.pc == 0x204) = true := by decide
theorem test_sneVxVy_CF10 : stepped (at200 0x9110) (fun t => t.pc == 0x202) = true := by decide
theorem test_skp_CF11 :
    stepped (((at200 0xE19E).setReg 1 0x17).setKey 7 true) (fun t => t.pc == 0x204) = true := by decide
theorem test_sknp_CF12 : stepped ((at200 0xE1A1).setReg 1 7) (fun t => t.pc == 0x204) = true := by decide
theorem test_sknp_CF13 :
    stepped (((at200 0xE1A1).setReg 1 7).setKey 7 true) (fun t => t.pc == 0x202) = true := by decide
theorem test_sys_CF15 : stepped (at200 0x0000) (fun t => t.pc == 0x202 && t.unknownCount == 0) = true := by decide

/-! ## Step driver and host (section 2.7) -/

theorem test_step_SD1 :
    stepped (((State.reset.setPc 0xFFF).memWrite 0xFFF 0x61).memWrite 0 0x23) (fun t => t.reg 1 == 0x23 && t.pc == 0x001)
      = true := by decide
theorem test_step_SD3 :
    stepped ((at200 0xFFFF).setReg 15 0x44)
      (fun t => t == (((at200 0xFFFF).setReg 15 0x44).setPc 0x202).countUnknown) = true := by decide
theorem test_load_SD5 : bytesAt (State.reset.load 0xFFE [1, 2, 3]) 0xFFE 3 = [1, 2, 3] ∧
    (State.reset.load 0xFFE [1, 2, 3]).memRead 0 = 3 := by decide
theorem test_reset_SD6 : ((at200 0x1234).setReg 3 9).resetAgain = State.reset := by decide
theorem test_setKey_SD7 : (State.reset.setKey 4 true).key 4 = true ∧ (State.reset.setKey 4 true).key 5 = false := by decide
/-- R35: glyph 0 row 0 at `FONT_BASE`, the last byte of glyph F, and zero after the table. -/
theorem test_reset_font :
    State.reset.memRead 0 = 0xF0 ∧ State.reset.memRead 79 = 0x80 ∧ State.reset.memRead 80 = 0 := by decide
/-- The host's reading of a table word is what the very next Step runs. -/
theorem test_withFetchWord :
    stepped (State.reset.withFetchWord 16 0x6A42) (fun t => t.reg 0xA == 0x42 && t.pc == 0x202) = true := by decide

/-! ## Witnesses: each hypothesis, and each clause, of the statements is met by a concrete state and operands -/

theorem witness_DecodeEncodeAgree : Instr.wellFormed (.sys 0x0ED) = true ∧ Instr.wellFormed (.drw 15 15 15) = true := by
  decide
theorem witness_EncodeDecodeAgree : decode 0xFF65 = .ok (.ldVxMem 15) := by decide
theorem witness_UnknownWordsAreExactlyThoseListed : decode 0xFF66 = .error (.unknownOpcode 0xFF66) := by decide
theorem witness_SpellingAssemblesToTheInstruction :
    assemble ⟨.jp, [.nnn 0xFFF]⟩ = some (.jp 0xFFF) ∧ assemble ⟨.drw, [.v 15, .v 0, .rows 15]⟩ = some (.drw 15 0 15) := by
  decide
theorem witness_MemoryReadAfterWriteMasked :
    0x1FFF &&& 0xFFF = 0xFFF &&& 0xFFF ∧ ¬ 0x1000 &&& 0xFFF = 0xFFF &&& 0xFFF := by decide
theorem witness_CanonicalMemoriesWithEqualBytesAreEqual :
    Memory.wf defaultConfig [(0x300, 1), (0xFFF, 2)] = true ∧
    ∀ a, Memory.read defaultConfig [(0x300, 1), (0xFFF, 2)] a = Memory.read defaultConfig [(0x300, 1), (0xFFF, 2)] a :=
  ⟨by decide, fun _ => rfl⟩
theorem witness_CreationInstallsFontAndZeroes :
    80 < 0x1000 ∧ defaultConfig.fontBase.val + 80 ≤ 80 ∧
    0 < ({ defaultConfig with fontBase := 1 } : Config).fontBase.val := by decide
theorem witness_StepRunsTheDecodedInstruction :
    (at200 0xD125).waitingKey = none ∧ decode (at200 0xD125).fetch = .ok (.drw 1 2 5) ∧
    ((State.reset.setPc 0xFFF).placeWord 0x5121).waitingKey = none ∧
    decode ((State.reset.setPc 0xFFF).placeWord 0x5121).fetch = .error (.unknownOpcode 0x5121) := by decide
theorem witness_UnknownOpcodeIsACountedNoOp :
    (at200 0x5121).waitingKey = none ∧ decode (at200 0x5121).fetch = .error (.unknownOpcode 0x5121) := by decide
theorem witness_KeyWaitPollChangesNothing :
    (State.reset.setWaiting (some 15)).waitingKey = some 15 ∧ ∀ k, (State.reset.setWaiting (some 15)).key k = false := by
  decide
theorem witness_KeyWaitResolvesToLowestPressedKey :
    (((State.reset.setKey 3 true).setKey 12 true).setWaiting (some 5)).waitingKey = some 5 ∧
    (((State.reset.setKey 3 true).setKey 12 true).setWaiting (some 5)).key 3 = true ∧
    ∀ j : KeyIdx, j < 3 → (((State.reset.setKey 3 true).setKey 12 true).setWaiting (some 5)).key j = false := by decide
theorem witness_StoredBytesAreTheNextFetch :
    1 ≤ (1 : RegIdx).val ∧ (State.reset.setI 0x1200).i.toNat % 0x1000 = (State.reset.setI 0x1200).pc.toNat % 0x1000 := by
  decide
/-- For the statements about every Step that answers a next state, and those that assume the invariant: a call at `0x200`. -/
theorem witness_step_next :
    (at200 0x2300).Inv ∧ (at200 0x2300).StackOk ∧ ∃ t, Sys2Proof.Machine.step (at200 0x2300) = .next t ∧ t.pc = 0x300 :=
  ⟨by unfold State.Inv; decide, by unfold State.StackOk; decide, _, rfl, by decide⟩
theorem witness_HostRunsKeepTheInvariant : (at200 0x2300).Inv := by unfold State.Inv; decide
theorem witness_TimersChangeOnlyByTimerInstructions :
    stepped ((at200 0xF115).setReg 1 3) (fun t => t.dt != ((at200 0xF115).setReg 1 3).dt) = true ∧
    stepped ((at200 0xF118).setReg 1 3) (fun t => t.st != ((at200 0xF118).setReg 1 3).st) = true := by decide
/-- For the statements about every instruction that answers a next state. -/
theorem witness_exec_next : ∃ t, exec (.addVxVy 1 2) State.reset = .next t ∧ t.reg 15 = 0 := ⟨_, rfl, by decide⟩
theorem witness_InstructionsReadOnlyTheirRegisters :
    (∀ z ∈ Instr.reads (.shrVxVy 1 2), (Vector.replicate 16 0 |>.set 1 (0xAA : Byte))[z] = State.reset.reg z) ∧
    ∃ t, exec (.shrVxVy 1 2) State.reset = .next t := ⟨by decide, _, rfl⟩
theorem witness_StackIsHiddenFromOtherInstructions :
    Instr.sys 0 ≠ .ret ∧ (∀ nnn, Instr.sys 0 ≠ .call nnn) ∧ exec (.sys 0) State.reset = .next State.reset :=
  ⟨by decide, by simp, rfl⟩
theorem witness_UnknownCountAffectsNothingElse :
    stepped (at200 0x5121) (fun t => t.unknownCount != (at200 0x5121).unknownCount) = true := by decide
theorem witness_IndexTopBitsAreNeverObservable :
    State.SameModIndexTop State.reset (State.reset.setI 0xF000) ∧
    ∃ t, Sys2Proof.Machine.step State.reset = .next t := ⟨⟨rfl, rfl⟩, _, rfl⟩
/-- For `add Vx,Vy`, the subtractions and the shifts: both sides of their conditions. -/
theorem witness_flag_conditions :
    (14 : RegIdx) ≠ 15 ∧ (0xFF : Byte).toNat + (0 : Byte).toNat = 255 ∧ (0xFF : Byte).toNat + (1 : Byte).toNat > 255 ∧
    (5 : Byte) ≥ 5 ∧ ¬ (4 : Byte) ≥ 5 := by decide
/-- For `drw`: pixel `(0, 0)` of a lit display is hit by glyph 0 drawn there, pixel `(5, 0)` is not; on the reset display no
lit pixel is hit. -/
theorem witness_DrawXorsTheSpriteAndFlagsCollision :
    (∃ r c, (State.reset.setDisp (blankDisplay.toggle 0 0)).SpriteHits 0 0 5 r c ∧
      (State.reset.setDisp (blankDisplay.toggle 0 0)).disp.pixel r c = true) ∧
    (¬ State.reset.SpriteHits 0 0 5 5 0) ∧
    (¬ ∃ r c, State.reset.SpriteHits 0 0 5 r c ∧ State.reset.disp.pixel r c = true) := by
  refine ⟨⟨0, 0, ⟨0, 0, by decide, by decide, by decide, by decide, by decide⟩, by decide⟩, ?_, ?_⟩
  · rintro ⟨k, j, hk, hj, hr, -, -⟩
    have hr : 5 = (0 + k) % 32 := hr
    omega
  · rintro ⟨r, c, -, h⟩
    have h : blankDisplay.pixel r c = true := h
    rw [show blankDisplay.pixel r c = false by simp [Display.pixel, blankDisplay]] at h
    cases h
/-- The first draw leaves the two coordinate registers as they were, as it does unless one of them is `VF`. -/
theorem witness_DrawingTwiceRestoresTheDisplay :
    ∃ t, exec (.drw 0 1 5) State.reset = .next t ∧ t.reg 0 = State.reset.reg 0 ∧ t.reg 1 = State.reset.reg 1 :=
  ⟨_, rfl, by decide, by decide⟩
theorem witness_AddToIndexWithItsFlagParameter :
    State.reset.config.addIVf = .carry12 ∧ (withAddIVf State.reset .unchanged).config.addIVf = .unchanged ∧
    ((State.reset.setI 0xFFF).i.toNat &&& 0xFFF) + (0 : Byte).toNat = 0xFFF ∧
    ((State.reset.setI 0xFFF).i.toNat &&& 0xFFF) + (1 : Byte).toNat > 0xFFF := by decide
theorem witness_BcdStoresThreeDigits :
    ∀ k, k < 3 → mask12 0x001 ≠ mask12 ((State.reset.setI 0xFFE).indexAddr k) := by decide
theorem witness_BlockTransfers :
    (15 : RegIdx) ≤ 15 ∧ (14 : RegIdx) < 15 ∧
    (∀ k : RegIdx, k ≤ 15 → mask12 0x008 ≠ mask12 ((State.reset.setI 0xFF8).indexAddr k.val)) ∧
    State.reset.config.ldstIncrementsI = true ∧ (withIncrement State.reset false).config.ldstIncrementsI = false := by decide
theorem witness_ReturnPopsIntoTheProgramCounter :
    State.reset.sp.val = 0 ∧ 0 < (State.reset.push 0x202).sp.val ∧
    (State.reset.push 0x202).sp.val < (State.reset.push 0x202).depth ∧ (withDepth State.reset .d12).depth - 1 = 11 := by
  decide
theorem witness_ReturnAfterCallRestoresTheProgramCounter :
    ((at200 0x2300).withStack 15 (Vector.replicate 16 0)).Inv ∧
    ((withDepth (at200 0x2300) .d12).withStack 11 (Vector.replicate 16 0)).Inv := by
  unfold State.Inv; decide
theorem witness_StackIsLastInFirstOutToItsDepth :
    State.reset.sp.val < State.reset.depth ∧ (List.replicate 16 (0x202 : Word)).length = State.reset.depth := by decide
/-- For the skips on comparisons: equal and different operands. -/
theorem witness_CompareSkipsSkipOneInstruction :
    State.reset.reg 1 = 0x00 ∧ State.reset.reg 1 ≠ 0xFF ∧ State.reset.reg 1 = State.reset.reg 2 ∧
    (State.reset.setReg 1 1).reg 1 ≠ (State.reset.setReg 1 1).reg 2 := by decide
theorem witness_KeySkipsTestTheLowNibblesKey :
    (15 : KeyIdx).val = ((State.reset.setReg 1 0xFF).reg 1).toNat &&& 0xF ∧ State.reset.key 15 = false ∧
    (State.reset.setKey 15 true).key 15 = true := by decide
theorem witness_SetKeySetsOneKey : (14 : KeyIdx) ≠ 15 := by decide
theorem witness_LoadStoresEachByteMasked :
    2 < [(1 : Byte), 2, 3].length ∧ [(1 : Byte), 2, 3].length ≤ 2 + 0x1000 ∧
    ∀ k, k < 3 → mask12 0x001 ≠ mask12 (0xFFE + k) := by decide
theorem witness_ReadTransactionsReportDisplayAndSound : (255 : Fin 256).val = 8 * (31 : Fin 32).val + (63 : Fin 64).val / 8 := by
  decide
theorem witness_EndedStateStepsToItself : (at200 0x1200).ended = true ∧ (at200 0x1200).pc.toNat < 0x1000 := by decide

end Sys2Proof.Tests
end

section
/-! PROOF. The frame relations as rules, one per write, then `drw` and `add I,Vx` (spec/42_display.md R160, R163;
spec/43_memory_index.md R181; spec/10_state.md R22). -/

namespace Sys2Proof.Machine

/-! ### Frames: what a write keeps of them -/

theorem State.SameBut.refl (ps : List Part) (s : State) : State.SameBut ps s s := by
  intro p _
  cases p with
  | stack => exact ⟨rfl, rfl⟩
  | regs | mem => exact fun _ => rfl
  | disp => exact fun _ _ => rfl
  | _ => rfl

theorem State.SameBut.setReg {ps : List Part} {s t : State} (h : State.SameBut ps s t) (hps : .regs ∈ ps) (x : RegIdx)
    (b : Byte) : State.SameBut ps s (t.setReg x b) := by
  intro p hp
  cases p with
  | regs => exact absurd hps hp
  | _ => exact h _ hp

theorem State.SameBut.setI {ps : List Part} {s t : State} (h : State.SameBut ps s t) (hps : .index ∈ ps) (n : Nat) :
    State.SameBut ps s (t.setI n) := by
  intro p hp
  cases p with
  | index => exact absurd hps hp
  | _ => exact h _ hp

theorem State.SameBut.setDisp {ps : List Part} {s t : State} (h : State.SameBut ps s t) (hps : .disp ∈ ps)
    (d : Display) : State.SameBut ps s (t.setDisp d) := by
  intro p hp
  cases p with
  | disp => exact absurd hps hp
  | _ => exact h _ hp

theorem State.RegsBut.refl (xs : List RegIdx) (s : State) : State.RegsBut xs s s := fun _ _ => rfl

theorem State.RegsBut.setI {xs : List RegIdx} {s t : State} (h : State.RegsBut xs s t) (n : Nat) :
    State.RegsBut xs s (t.setI n) := h

theorem State.RegsBut.setDisp {xs : List RegIdx} {s t : State} (h : State.RegsBut xs s t) (d : Display) :
    State.RegsBut xs s (t.setDisp d) := h

theorem State.RegsBut.setReg {xs : List RegIdx} {s t : State} (h : State.RegsBut xs s t) {x : RegIdx} (hx : x ∈ xs)
    (b : Byte) : State.RegsBut xs s (t.setReg x b) := by
  intro z hz
  rw [State.reg_setReg_ne t b (ne_of_mem_of_not_mem hx hz).symm]
  exact h z hz

/-! ### What a draw does (R163) -/

/-- The pixels `SpriteHits` names are those the rows of `State.blit` hit. -/
theorem State.spriteHits_iff_rowsHit (s : State) (x y : RegIdx) (n : Nat) (r : Fin 32) (c : Fin 64) :
    s.SpriteHits x y n r c ↔
      RowsHit (s.reg y).toNat (s.reg x).toNat (fun k => s.memRead (s.indexAddr k)) n r c := by
  constructor
  · rintro ⟨k, j, hk, hj, hr, hc, hb⟩
    exact ⟨k, hk, Fin.ext hr, j, hj, hc, hb⟩
  · rintro ⟨k, hk, hr, j, hj, hc, hb⟩
    exact ⟨k, j, hk, hj, congrArg Fin.val hr, hc, hb⟩

theorem State.pixel_blit_of_spriteHits {s : State} {x y : RegIdx} {n : Fin 16} {r : Fin 32} {c : Fin 64}
    (h : s.SpriteHits x y n.val r c) : (s.blit x y n).disp.pixel r c = !s.disp.pixel r c :=
  (Blit.pixel_rows ⟨s.disp, false⟩ _ _ _ n.val (by omega) r c).1 ((s.spriteHits_iff_rowsHit ..).mp h)

theorem State.pixel_blit_of_not_spriteHits {s : State} {x y : RegIdx} {n : Fin 16} {r : Fin 32} {c : Fin 64}
    (h : ¬ s.SpriteHits x y n.val r c) : (s.blit x y n).disp.pixel r c = s.disp.pixel r c :=
  (Blit.pixel_rows ⟨s.disp, false⟩ _ _ _ n.val (by omega) r c).2 (mt (s.spriteHits_iff_rowsHit ..).mpr h)

/-- A draw collides exactly when its sprite hits a lit pixel. -/
theorem State.hit_blit (s : State) (x y : RegIdx) (n : Fin 16) :
    (s.blit x y n).hit = true ↔ ∃ r c, s.SpriteHits x y n.val r c ∧ s.disp.pixel r c = true := by
  simp only [State.blit, Blit.hit_rows _ _ _ _ n.val (by omega : n.val ≤ 32), State.spriteHits_iff_rowsHit,
    Bool.false_eq_true, false_or]

/-- Settles O38: the draw's pixels and collision are those of `State.blit`, and its writes are `Disp` and `V[15]`. -/
theorem drawXorsTheSpriteAndFlagsCollision : Obligations.DrawXorsTheSpriteAndFlagsCollision := by
  intro x y n s
  refine ⟨_, exec_drw x y n s, fun r c => State.pixel_blit_of_spriteHits,
    fun r c => State.pixel_blit_of_not_spriteHits, fun hit => ?_, fun noHit => ?_, ?_, ?_⟩
  · rw [State.setFlag_eq, State.reg_setReg_self, (s.hit_blit x y n).mpr hit]
    rfl
  · rw [State.setFlag_eq, State.reg_setReg_self, Bool.eq_false_of_not_eq_true (mt (s.hit_blit x y n).mp noHit)]
    rfl
  · exact ((State.RegsBut.refl _ s).setDisp _).setReg (by simp) _
  · exact ((State.SameBut.refl [.regs, .disp] s).setDisp (by simp) _).setReg (by simp) _ _

/-! ### The sum of `add I,Vx` and its flag (R181) -/

theorem and_0xFFF_eq_mod (n : Nat) : n &&& 0xFFF = n % 0x1000 := Nat.and_two_pow_sub_one_eq_mod n 12

/-- The sum of a 12-bit address and a byte fits `I`. -/
theorem indexSum_lt (i : Word) (a : Byte) : indexSum i a < 0x10000 := by
  have ha := a.isLt
  unfold indexSum
  omega

theorem State.setIndexFlag_of_carry12 {s : State} (h : s.config.addIVf = .carry12) (f : Byte) :
    s.setIndexFlag f = s.setReg flagReg f := by
  simp [State.setIndexFlag, h]

theorem State.setIndexFlag_of_unchanged {s : State} (h : s.config.addIVf = .unchanged) (f : Byte) :
    s.setIndexFlag f = s := by
  simp [State.setIndexFlag, h]

theorem State.SameBut.setIndexFlag {ps : List Part} {s t : State} (h : State.SameBut ps s t) (hps : .regs ∈ ps)
    (f : Byte) : State.SameBut ps s (t.setIndexFlag f) := by
  cases hc : t.config.addIVf with
  | carry12 => rw [State.setIndexFlag_of_carry12 hc]; exact h.setReg hps flagReg f
  | unchanged => rwa [State.setIndexFlag_of_unchanged hc]

/-- Settles O41: the sum does not overflow `I`, and the flag write is decided by the parameter. -/
theorem addToIndexWithItsFlagParameter : Obligations.AddToIndexWithItsFlagParameter := by
  intro x s
  simp only [and_0xFFF_eq_mod]
  refine ⟨_, exec_addIVx x s, ?_, fun hc => ?_, fun hc => ?_, ?_⟩
  · rw [State.setIndexFlag_i, State.setI_i_toNat, Nat.mod_eq_of_lt (indexSum_lt ..), indexSum]
  · rw [State.setIndexFlag_of_carry12 (s := s.setI _) hc, State.reg_setReg_self, indexCarry_eq]
    exact ⟨rfl, ((State.RegsBut.refl _ s).setI _).setReg (by simp) _⟩
  · rw [State.setIndexFlag_of_unchanged (s := s.setI _) hc]
    exact (State.RegsBut.refl _ s).setI _
  · exact ((State.SameBut.refl [.regs, .index] s).setI (by simp) _).setIndexFlag (by simp) _

end Sys2Proof.Machine
end

section
/-! PROOF. Reads and writes of one byte, in the mask's own spelling `& 0xFFF` (spec/20_memory.md R61). -/

namespace Sys2Proof.Machine

theorem and_0xFFF_eq_mask12 (a : Nat) : a &&& 0xFFF = mask12 a := and_0xFFF_eq_mod a

/-- Settles O8: `State.memRead_memWrite` and `State.memRead_mask12`, whose `mask12` is the bitwise mask. -/
theorem memoryReadAfterWriteMasked : Obligations.MemoryReadAfterWriteMasked := by
  intro s a b v
  simp only [and_0xFFF_eq_mask12]
  exact ⟨s.memRead_memWrite a b v, s.memRead_mask12 a⟩

end Sys2Proof.Machine
end

section
/-! PROOF. The fields of a word as numbers, and their overlaps (spec/30_encoding.md R81). -/

namespace Sys2Proof

/-! ### A field as a number -/

/-- `m` bits of a word from bit `s` on, in the arithmetic spelling of the field statements. -/
theorem toNat_extractLsb'_eq_div_mod (w : Word) (s m : Nat) : (w.extractLsb' s m).toNat = w.toNat / 2 ^ s % 2 ^ m := by
  rw [BitVec.extractLsb'_toNat, Nat.shiftRight_eq_div_pow]

/-- `m` bits of a word from bit 0 on. -/
theorem toNat_extractLsb'_zero_eq_mod (w : Word) (m : Nat) : (w.extractLsb' 0 m).toNat = w.toNat % 2 ^ m := by
  rw [toNat_extractLsb'_eq_div_mod, Nat.pow_zero, Nat.div_one]

/-- `u` is what stands above bit 11: a word has no bit above its fifteenth. -/
theorem fieldsOf_u_toNat (w : Word) : (fieldsOf w).u.toNat = w.toNat / 0x1000 := by
  have hw : w.toNat < 0x10000 := w.isLt
  have hu : (fieldsOf w).u.toNat = w.toNat / 0x1000 % 0x10 := toNat_extractLsb'_eq_div_mod w 12 4
  omega

theorem fieldsOf_x_toNat (w : Word) : (fieldsOf w).x.toNat = w.toNat / 0x100 % 0x10 :=
  toNat_extractLsb'_eq_div_mod w 8 4

theorem fieldsOf_y_toNat (w : Word) : (fieldsOf w).y.toNat = w.toNat / 0x10 % 0x10 :=
  toNat_extractLsb'_eq_div_mod w 4 4

theorem fieldsOf_p_toNat (w : Word) : (fieldsOf w).p.toNat = w.toNat % 0x10 :=
  toNat_extractLsb'_zero_eq_mod w 4

theorem fieldsOf_kk_toNat (w : Word) : (fieldsOf w).kk.toNat = w.toNat % 0x100 :=
  toNat_extractLsb'_zero_eq_mod w 8

theorem fieldsOf_nnn_toNat (w : Word) : (fieldsOf w).nnn.toNat = w.toNat % 0x1000 :=
  toNat_extractLsb'_zero_eq_mod w 12

/-! ### The overlaps: adjacent fields join to the field that spans them -/

theorem fieldsOf_nnn_eq_x_append_kk (w : Word) : (fieldsOf w).nnn = (fieldsOf w).x ++ (fieldsOf w).kk :=
  (BitVec.extractLsb'_append_extractLsb'_eq_extractLsb' (x := w) (start₁ := 0) (len₁ := 8) (start₂ := 8) (len₂ := 4)
    rfl).symm

theorem fieldsOf_kk_eq_y_append_p (w : Word) : (fieldsOf w).kk = (fieldsOf w).y ++ (fieldsOf w).p :=
  (BitVec.extractLsb'_append_extractLsb'_eq_extractLsb' (x := w) (start₁ := 0) (len₁ := 4) (start₂ := 4) (len₂ := 4)
    rfl).symm

/-- Settles O5: each field's value, then the two overlaps as appended bit vectors read as numbers. -/
theorem fieldsAreBitsOfTheOpcode : Obligations.FieldsAreBitsOfTheOpcode := by
  intro w
  refine ⟨fieldsOf_u_toNat w, fieldsOf_x_toNat w, fieldsOf_y_toNat w, fieldsOf_p_toNat w, fieldsOf_kk_toNat w,
    fieldsOf_nnn_toNat w, ?nnn, ?kk⟩
  case nnn => rw [fieldsOf_nnn_eq_x_append_kk, BitVec.toNat_append]
  case kk => rw [fieldsOf_kk_eq_y_append_p, BitVec.toNat_append]

end Sys2Proof
end

section
/-! PROOF. What a Step answers on each of its paths, and which of them write a timer (spec/40_step_driver.md R110 to
R119). -/

namespace Sys2Proof.Machine

/-! ### The equation of each path of a Step (R110) -/

theorem step_of_waiting {s : State} {w : RegIdx} (hw : s.waitingKey = some w) : step s = .next (s.pollKey w) := by
  simp only [step, hw]

theorem step_of_decode_ok {s : State} {i : Instr} (hw : s.waitingKey = none) (hd : decode s.fetch = .ok i) :
    step s = exec i s.advance := by
  simp only [step, hw, State.runFetched, hd]

theorem step_of_decode_error {s : State} {e : Reject} (hw : s.waitingKey = none) (hd : decode s.fetch = .error e) :
    step s = .next s.advance.countUnknown := by
  simp only [step, hw, State.runFetched, hd]

/-! ### Totality (R119) -/

/-- No arm of `exec` faults or is refused. -/
theorem exec_total (i : Instr) (s : State) : ∃ t, exec i s = .next t := by
  cases i <;> exact ⟨_, rfl⟩

/-- Settles O16: a Step answers a next state on the poll, on the instruction and on the unknown-opcode path. -/
theorem stepAlwaysHasASuccessor : Obligations.StepAlwaysHasASuccessor := by
  intro s
  cases hw : s.waitingKey with
  | some w => exact ⟨_, step_of_waiting hw⟩
  | none =>
    cases hd : decode s.fetch with
    | ok i => rw [step_of_decode_ok hw hd]; exact exec_total i s.advance
    | error e => exact ⟨_, step_of_decode_error hw hd⟩

/-! ### Timers (R118) -/

@[simp] theorem State.pollKey_dt (s : State) (w : RegIdx) : (s.pollKey w).dt = s.dt := by
  obtain ⟨-, h⟩ | ⟨k, -, -, h⟩ := s.pollKey_cases w <;> simp [h]

@[simp] theorem State.pollKey_st (s : State) (w : RegIdx) : (s.pollKey w).st = s.st := by
  obtain ⟨-, h⟩ | ⟨k, -, -, h⟩ := s.pollKey_cases w <;> simp [h]

/-- An instruction that changes a timer is the one that sets it. -/
theorem exec_timers {i : Instr} {s t : State} (h : exec i s = .next t) :
    (t.dt ≠ s.dt → ∃ x, i = .ldDTVx x) ∧ (t.st ≠ s.st → ∃ x, i = .ldSTVx x) := by
  cases i with
  | ldDTVx x => cases h; exact ⟨fun _ => ⟨x, rfl⟩, absurd rfl⟩
  | ldSTVx x => cases h; exact ⟨absurd rfl, fun _ => ⟨x, rfl⟩⟩
  | _ => cases h; exact ⟨absurd (by simp), absurd (by simp)⟩

/-- Settles O22: the poll and the unknown-opcode path keep both timers, and so does every instruction but those that
`exec_timers` names. -/
theorem timersChangeOnlyByTimerInstructions : Obligations.TimersChangeOnlyByTimerInstructions := by
  intro s t h
  obtain ⟨w, -, rfl⟩ | ⟨hw, i, hd, hi⟩ | ⟨-, e, -, rfl⟩ := step_cases h
  · exact ⟨absurd (s.pollKey_dt w), absurd (s.pollKey_st w)⟩
  · obtain ⟨hdt, hst⟩ := exec_timers hi
    refine ⟨fun hne => ⟨hw, ?dt⟩, fun hne => ⟨hw, ?st⟩⟩
    case dt =>
      obtain ⟨x, rfl⟩ := hdt hne
      exact ⟨x, hd⟩
    case st =>
      obtain ⟨x, rfl⟩ := hst hne
      exact ⟨x, hd⟩
  · exact ⟨absurd rfl, absurd rfl⟩

/-! ### Fetch and advance (R113, R114) -/

/-- R62: the first byte of an opcode is its high one. -/
theorem wordOfBytes_toNat (hi lo : Byte) : (wordOfBytes hi lo).toNat = hi.toNat <<< 8 ||| lo.toNat :=
  BitVec.toNat_append hi lo

/-- Settles O12: the masked fetch and advance, then the two paths of a Step with no key-wait. -/
theorem stepRunsTheDecodedInstruction : Obligations.StepRunsTheDecodedInstruction := by
  intro s hw
  simp only [and_0xFFF_eq_mask12, State.memRead_mask12]
  refine ⟨wordOfBytes_toNat _ _, State.setPc_pc_toNat s _, fun i hd => ?_, fun e hd => ?_⟩
  · rw [step_of_decode_ok hw hd, State.advance_eq]
  · exact ⟨_, step_of_decode_error hw hd, by rw [State.countUnknown_pc, State.advance_eq]⟩

/-! ### The key-wait poll (R111) -/

theorem State.pollKey_of_no_key {s : State} (h : ∀ k, s.key k = false) (w : RegIdx) : s.pollKey w = s := by
  simp only [State.pollKey, s.firstPressed_eq_none.mpr h]

/-- Settles O14: with no key pressed the poll leaves the state as it is. -/
theorem keyWaitPollChangesNothing : Obligations.KeyWaitPollChangesNothing := by
  intro s w hw hk
  rw [step_of_waiting hw, State.pollKey_of_no_key hk]

end Sys2Proof.Machine
end

section
/-! PROOF. The data write and the flag write of `State.setRegFlag` as rules, then the arithmetic that uses it
(spec/41_arithmetic.md R136 to R138, R140; spec/10_state.md R22). -/

namespace Sys2Proof.Machine

/-! ### A data write, then the flag write (R22) -/

theorem State.reg_setRegFlag_of_ne (s : State) {x : RegIdx} (data flag : Byte) (hx : x ≠ flagReg) :
    (s.setRegFlag x data flag).reg x = data := by
  rw [State.setRegFlag_eq, State.reg_setReg_ne _ flag hx, State.reg_setReg_self]

/-- The flag stands in `V[15]` even when that is the destination: it is written last. -/
theorem State.reg_setRegFlag_flagReg (s : State) (x : RegIdx) (data flag : Byte) :
    (s.setRegFlag x data flag).reg flagReg = flag :=
  State.reg_setReg_self _ flagReg flag

theorem State.regsBut_setRegFlag (s : State) (x : RegIdx) (data flag : Byte) :
    State.RegsBut [x, flagReg] s (s.setRegFlag x data flag) :=
  ((State.RegsBut.refl _ s).setReg (by simp) data).setReg (by simp) flag

theorem State.sameBut_setRegFlag (s : State) (x : RegIdx) (data flag : Byte) :
    State.SameBut [.regs] s (s.setRegFlag x data flag) :=
  ((State.SameBut.refl [.regs] s).setReg (by simp) x data).setReg (by simp) flagReg flag

/-! ### Addition, subtraction and the shifts -/

/-- Settles O32: the writes are those of `State.setRegFlag`, of the wrapped sum and its carry. -/
theorem addRegistersSetsCarry : Obligations.AddRegistersSetsCarry := by
  intro x y s
  refine ⟨_, exec_addVxVy x y s, fun hx => ?data, ?flag, s.regsBut_setRegFlag _ _ _, s.sameBut_setRegFlag _ _ _⟩
  case data => rw [s.reg_setRegFlag_of_ne _ _ hx, addData_toNat]
  case flag => rw [s.reg_setRegFlag_flagReg, addCarry_eq]

/-- Settles O33: the writes are those of `State.setRegFlag`, of the wrapped difference and its NOT-borrow. -/
theorem subtractSetsNotBorrow : Obligations.SubtractSetsNotBorrow := by
  intro x y s
  refine ⟨_, exec_subVxVy x y s, fun hx => ?data, ?flag, s.regsBut_setRegFlag _ _ _, s.sameBut_setRegFlag _ _ _⟩
  case data => rw [s.reg_setRegFlag_of_ne _ _ hx, subData_toNat]
  case flag => simp only [s.reg_setRegFlag_flagReg, subNotBorrow_eq, ge_iff_le, BitVec.le_def]

/-- Settles O35: the writes are those of `State.setRegFlag`, of the shifted `V[y]` and the bit shifted out. -/
theorem shiftsTakeVyAndSetTheBitShiftedOut : Obligations.ShiftsTakeVyAndSetTheBitShiftedOut := by
  intro x y s
  refine ⟨⟨_, exec_shrVxVy x y s, fun hx => ?shrData, ?shrFlag, s.regsBut_setRegFlag _ _ _, s.sameBut_setRegFlag _ _ _⟩,
    ⟨_, exec_shlVxVy x y s, fun hx => ?shlData, ?shlFlag, s.regsBut_setRegFlag _ _ _, s.sameBut_setRegFlag _ _ _⟩⟩
  case shrData => rw [s.reg_setRegFlag_of_ne _ _ hx, shrData_toNat]
  case shrFlag => rw [s.reg_setRegFlag_flagReg, shrOut_toNat]
  case shlData => rw [s.reg_setRegFlag_of_ne _ _ hx, shlData_toNat]
  case shlFlag => rw [s.reg_setRegFlag_flagReg, shlOut_toNat]

end Sys2Proof.Machine
end

section
/-! PROOF. Bytes stored from `I` on as rules, then the decimal digits of `ld B,Vx` (spec/43_memory_index.md R183;
spec/20_memory.md R61, R64). -/

namespace Sys2Proof.Machine

/-! ### Bytes stored at `I`, `I + 1`, … (R64) -/

theorem State.SameBut.storeBytes {ps : List Part} {s t : State} (h : State.SameBut ps s t) (hps : .mem ∈ ps) (a : Nat)
    (bs : List Byte) : State.SameBut ps s (t.storeBytes a bs) := by
  rw [State.storeBytes_eq]
  intro p hp
  cases p with
  | mem => exact absurd hps hp
  | _ => exact h _ hp

theorem State.indexAddr_zero_add (s : State) (k : Nat) : s.indexAddr 0 + k = s.indexAddr k := rfl

theorem State.memRead_indexAddr_storeBytes (s : State) (bs : List Byte) (hl : bs.length ≤ 0x1000) (k : Nat)
    (hk : k < bs.length) : (s.storeBytes (s.indexAddr 0) bs).memRead (s.indexAddr k) = bs[k] := by
  rw [← s.indexAddr_zero_add k, s.memRead_storeBytes _ bs hl k hk]

theorem State.memRead_storeBytes_of_ne_indexAddr (s : State) (bs : List Byte) (a : Nat)
    (h : ∀ k, k < bs.length → mask12 a ≠ mask12 (s.indexAddr k)) :
    (s.storeBytes (s.indexAddr 0) bs).memRead a = s.memRead a :=
  s.memRead_storeBytes_of_ne _ a bs h

/-! ### The decimal digits (R183) -/

theorem bcdDigits_length (b : Byte) : (bcdDigits b).length = 3 := rfl

/-- Each digit fits its byte, so none is cut off. -/
theorem bcdDigits_map_toNat (b : Byte) :
    (bcdDigits b).map BitVec.toNat = [b.toNat / 100, b.toNat / 10 % 10, b.toNat % 10] := by
  have hb : b.toNat < 256 := b.isLt
  simp only [bcdDigits, List.map_cons, List.map_nil, BitVec.toNat_ofNat, List.cons.injEq, and_true]
  omega

/-- What stands at `I + k` after the digits of a byte are stored from `I` on. -/
theorem State.memRead_storeBytes_bcdDigits_toNat (s : State) (b : Byte) (k : Nat) (hk : k < 3) :
    ((s.storeBytes (s.indexAddr 0) (bcdDigits b)).memRead (s.indexAddr k)).toNat =
      [b.toNat / 100, b.toNat / 10 % 10, b.toNat % 10][k] := by
  have hk' : k < (bcdDigits b).length := by rwa [bcdDigits_length]
  rw [s.memRead_indexAddr_storeBytes (bcdDigits b) (by simp [bcdDigits_length]) k hk']
  simp only [← bcdDigits_map_toNat, List.getElem_map]

/-- Settles O42: `ld B,Vx` stores the digits of `V[x]` from `I` on, and stored bytes change those bytes only. -/
theorem bcdStoresThreeDigits : Obligations.BcdStoresThreeDigits := by
  intro x s
  have digit := s.memRead_storeBytes_bcdDigits_toNat (s.reg x)
  exact ⟨_, exec_ldBVx x s, digit 0 (by decide), digit 1 (by decide), digit 2 (by decide),
    fun a ha => s.memRead_storeBytes_of_ne_indexAddr _ a ha, (State.SameBut.refl [.mem] s).storeBytes (by simp) _ _⟩

end Sys2Proof.Machine
end

section
/-! PROOF. What a write of the pending key-wait leaves unchanged, then `ld Vx,K` (spec/44_timers_keys.md R203;
spec/10_state.md R36). -/

namespace Sys2Proof.Machine

theorem State.SameBut.setWaiting {ps : List Part} {s t : State} (h : State.SameBut ps s t) (hps : .waiting ∈ ps)
    (w : Option RegIdx) : State.SameBut ps s (t.setWaiting w) := by
  intro p hp
  cases p with
  | waiting => exact absurd hps hp
  | _ => exact h _ hp

/-- Settles O46: the one write of `ld Vx,K` is `State.setWaiting`, which keeps every other piece of state. -/
theorem keyWaitBegins : Obligations.KeyWaitBegins := by
  intro x s
  exact ⟨_, exec_ldVxK x s, State.setWaiting_waitingKey s _,
    (State.SameBut.refl [.waiting] s).setWaiting (by simp) _⟩

end Sys2Proof.Machine
end

section
/-! PROOF. What a tick does to a counter, and what the timer writes leave unchanged, then the TickTimers transaction
(spec/60_exceptions.md R257). -/

namespace Sys2Proof.Machine

/-- The floor of R257 is the truncation of the natural subtraction. -/
theorem tickDown_toNat (b : Byte) : (tickDown b).toNat = b.toNat - 1 := by
  unfold tickDown
  split
  next hzero => rw [hzero]; rfl
  next hne =>
    have hone : 1 ≤ b := by bv_omega
    exact BitVec.toNat_sub_of_le hone

theorem State.SameBut.setDt {ps : List Part} {s t : State} (h : State.SameBut ps s t) (hps : .dt ∈ ps) (b : Byte) :
    State.SameBut ps s (t.setDt b) := by
  intro p hp
  cases p with
  | dt => exact absurd hps hp
  | _ => exact h _ hp

theorem State.SameBut.setSt {ps : List Part} {s t : State} (h : State.SameBut ps s t) (hps : .st ∈ ps) (b : Byte) :
    State.SameBut ps s (t.setSt b) := by
  intro p hp
  cases p with
  | st => exact absurd hps hp
  | _ => exact h _ hp

/-- Settles O55: TickTimers writes the ticked `DT` and `ST`, and the two writes keep every other piece of state. -/
theorem tickTimersCountsDownToZero : Obligations.TickTimersCountsDownToZero := by
  intro s
  exact ⟨s.tickTimers, rfl, tickDown_toNat s.dt, tickDown_toNat s.st,
    ((State.SameBut.refl [.dt, .st] s).setDt (by simp) _).setSt (by simp) _⟩

end Sys2Proof.Machine
end

section
/-! PROOF. The opcode map read both ways: from an instruction to its word and back, the exclusive guards and the unknown
words (spec/30_encoding.md R84 to R87, R90). -/

namespace Sys2Proof

/-! ### From an instruction to its word and back (R84, R85) -/

/-- Settles O1: the first row whose guard the encoding meets is the instruction's own. -/
theorem decodeEncodeAgree : Obligations.DecodeEncodeAgree := by
  intro i hwf
  cases i with
  | sys nnn =>
    have hallows : sysAllows nnn = true := hwf
    obtain ⟨hcls, hret⟩ : ¬ nnn = 0x0E0#12 ∧ ¬ nnn = 0x0EE#12 := by simpa [sysAllows] using hallows
    simp [decode, opcodeMap, rowsLow, encode, hallows, hcls, hret]
  | _ => simp [decode, opcodeMap, rowsLow, rowsArith, rowsMid, rowsHigh, encode, sysAllows]

/-! ### From a word to its instruction and back -/

theorem wordNnn_eq_iff (u : BitVec 4) (nnn : Addr) (w : Word) :
    wordNnn u nnn = w ↔ (fieldsOf w).u = u ∧ (fieldsOf w).nnn = nnn := by
  constructor
  · rintro rfl
    exact ⟨fieldsOf_wordNnn_u u nnn, fieldsOf_wordNnn_nnn u nnn⟩
  · rintro ⟨rfl, rfl⟩
    exact wordNnn_fieldsOf w

theorem wordXkk_of_fields {w : Word} {u : BitVec 4} {kk : Byte} (hu : (fieldsOf w).u = u) (hk : (fieldsOf w).kk = kk) :
    wordXkk u (nibble (fieldsOf w).x) kk = w := by
  rw [← hu, ← hk, wordXkk_fieldsOf]

theorem wordXyp_of_fields {w : Word} {u p : BitVec 4} (hu : (fieldsOf w).u = u) (hp : (fieldsOf w).p = p) :
    wordXyp u (nibble (fieldsOf w).x) (nibble (fieldsOf w).y) p = w := by
  rw [← hu, ← hp, wordXyp_fieldsOf]

/-- The guard of the row admits only words that encode what the row builds. -/
def Row.Sound (r : Row) : Prop :=
  ∀ w : Word, r.guard (fieldsOf w) = true →
    (r.build (fieldsOf w)).wellFormed = true ∧ encode (r.build (fieldsOf w)) = w

theorem rowsLow_sound : ∀ r ∈ rowsLow, r.Sound := by
  simp +contextual [rowsLow, Row.Sound, Instr.wellFormed, encode, wordNnn_eq_iff, wordXkk_of_fields, wordXyp_of_fields]

theorem rowsArith_sound : ∀ r ∈ rowsArith, r.Sound := by
  simp +contextual [rowsArith, Row.Sound, Instr.wellFormed, encode, wordXyp_of_fields]

theorem rowsMid_sound : ∀ r ∈ rowsMid, r.Sound := by
  simp +contextual [rowsMid, Row.Sound, Instr.wellFormed, encode, wordNnn_eq_iff, wordXkk_of_fields, wordXyp_of_fields]

theorem rowsHigh_sound : ∀ r ∈ rowsHigh, r.Sound := by
  simp +contextual [rowsHigh, Row.Sound, Instr.wellFormed, encode, wordXkk_of_fields]

theorem opcodeMap_sound {r : Row} (hr : r ∈ opcodeMap) : r.Sound := by
  simp only [opcodeMap, List.mem_append] at hr
  obtain ((hr | hr) | hr) | hr := hr
  · exact rowsLow_sound r hr
  · exact rowsArith_sound r hr
  · exact rowsMid_sound r hr
  · exact rowsHigh_sound r hr

/-- A word that decodes meets the guard of a row that builds the instruction. -/
theorem decode_eq_ok {w : Word} {i : Instr} (h : decode w = .ok i) :
    ∃ r ∈ opcodeMap, r.guard (fieldsOf w) = true ∧ r.build (fieldsOf w) = i := by
  unfold decode at h
  split at h
  next r hr =>
    injection h with h
    exact ⟨r, List.mem_of_find?_eq_some hr, by simpa using List.find?_some hr, h⟩
  next => cases h

/-- Settles O2: the row that decodes the word is sound. -/
theorem encodeDecodeAgree : Obligations.EncodeDecodeAgree := by
  intro w i h
  obtain ⟨r, hr, hguard, rfl⟩ := decode_eq_ok h
  exact opcodeMap_sound hr w hguard

/-! ### No two rows match one word (R84, decision D10) -/

/-- Whichever row of the map matches a word, the word decodes to what that row builds. -/
theorem decode_of_guard {r : Row} (hr : r ∈ opcodeMap) {w : Word} (hguard : r.guard (fieldsOf w) = true) :
    decode w = .ok (r.build (fieldsOf w)) := by
  obtain ⟨hwf, henc⟩ := opcodeMap_sound hr w hguard
  rw [← decodeEncodeAgree _ hwf, henc]

/-- Each row builds an instruction form of its own: row `k` builds the `k`-th constructor. -/
theorem opcodeMap_pairwise_build_ne (f : Fields) : opcodeMap.Pairwise (fun a b => a.build f ≠ b.build f) := by
  have hforms : (opcodeMap.map fun r => (r.build f).ctorIdx) = List.range 35 := rfl
  have hrising : (opcodeMap.map fun r => (r.build f).ctorIdx).Pairwise (· < ·) := hforms ▸ List.pairwise_lt_range
  exact (List.pairwise_map.mp hrising).imp fun hlt heq => Nat.ne_of_lt hlt (congrArg Instr.ctorIdx heq)

/-- Settles O3: two rows that match one word build the same instruction, so they are the same row. -/
theorem opcodeGuardsDisjoint : Obligations.OpcodeGuardsDisjoint := by
  refine ⟨rfl, List.pairwise_iff_forall_sublist.mpr fun {a b} hab w ⟨ha, hb⟩ => ?_⟩
  have hne : a.build (fieldsOf w) ≠ b.build (fieldsOf w) :=
    List.pairwise_iff_forall_sublist.mp (opcodeMap_pairwise_build_ne (fieldsOf w)) hab
  have hdec := (decode_of_guard (hab.subset (by simp)) ha).symm.trans (decode_of_guard (hab.subset (by simp)) hb)
  exact hne (Except.ok.inj hdec)

/-! ### The unknown words (R86) -/

theorem decode_eq_error_iff (w : Word) :
    (∃ e, decode w = .error e) ↔ ∀ r ∈ opcodeMap, r.guard (fieldsOf w) = false := by
  constructor
  · rintro ⟨e, he⟩ r hr
    refine Bool.eq_false_of_not_eq_true fun hguard => ?_
    rw [decode_of_guard hr hguard] at he
    cases he
  · intro hnone
    cases hd : decode w with
    | error e => exact ⟨e, rfl⟩
    | ok i =>
      obtain ⟨r, hr, hguard, -⟩ := decode_eq_ok hd
      rw [hnone r hr] at hguard
      cases hguard

theorem sysAllows_eq_false_iff (nnn : Addr) : sysAllows nnn = false ↔ nnn = 0x0E0 ∨ nnn = 0x0EE := by
  simp [sysAllows, or_iff_not_imp_left]

/-- The sub-opcodes of class 8 that R86 lists are those no row of class 8 names. -/
theorem mem_unknown_class8_iff (p : BitVec 4) :
    p ∈ ([0x8, 0x9, 0xA, 0xB, 0xC, 0xD, 0xF] : List (BitVec 4)) ↔
      p ∉ ([0x0, 0x1, 0x2, 0x3, 0x4, 0x5, 0x6, 0x7, 0xE] : List (BitVec 4)) := by
  revert p
  decide

theorem classNibble_cases (u : BitVec 4) :
    u = 0x0 ∨ u = 0x1 ∨ u = 0x2 ∨ u = 0x3 ∨ u = 0x4 ∨ u = 0x5 ∨ u = 0x6 ∨ u = 0x7 ∨ u = 0x8 ∨ u = 0x9 ∨ u = 0xA ∨
      u = 0xB ∨ u = 0xC ∨ u = 0xD ∨ u = 0xE ∨ u = 0xF := by
  revert u
  decide

/-- Settles O4: class by class, the sub-opcodes that no guard names are those of R86's table. -/
theorem unknownWordsAreExactlyThoseListed : Obligations.UnknownWordsAreExactlyThoseListed := by
  intro w
  rw [decode_eq_error_iff, mem_unknown_class8_iff]
  obtain ⟨u, x, y, p, kk, nnn⟩ := fieldsOf w
  simp only [opcodeMap, rowsLow, rowsArith, rowsMid, rowsHigh, List.cons_append, List.nil_append,
    List.forall_mem_cons, List.not_mem_nil, false_imp_iff, implies_true, and_true, Bool.and_eq_false_imp, beq_iff_eq,
    beq_eq_false_iff_ne, sysAllows_eq_false_iff]
  obtain rfl | rfl | rfl | rfl | rfl | rfl | rfl | rfl | rfl | rfl | rfl | rfl | rfl | rfl | rfl | rfl :=
    classNibble_cases u <;> simp
  -- Class 0 is left: its `sys` row takes every address that `cls` and `ret` do not.
  exact And.intro

/-- Settles O6: each word is run through the map. -/
theorem writtenOutWordsDecode : Obligations.WrittenOutWordsDecode := by
  unfold Obligations.WrittenOutWordsDecode
  decide

end Sys2Proof
end

section
/-! PROOF. What each form of a written instruction spells, and the canonical spelling (spec/30_encoding.md R89, R90). -/

namespace Sys2Proof.Machine

/-! ### Operands that fit their field -/

@[simp] theorem reg?_eq_some_iff (n : Nat) (x : RegIdx) : reg? n = some x ↔ x.val = n := by
  unfold reg?
  split
  next h => rw [Option.some.injEq, Fin.ext_iff, eq_comm]
  next h => simpa using fun he : x.val = n => h (he ▸ x.isLt)

@[simp] theorem byte?_eq_some_iff (n : Nat) (kk : Byte) : byte? n = some kk ↔ kk.toNat = n := by
  have := kk.isLt
  unfold byte?
  split
  next h => rw [Option.some.injEq]; bv_omega
  next h => simp; omega

@[simp] theorem addr?_eq_some_iff (n : Nat) (nnn : Addr) : addr? n = some nnn ↔ nnn.toNat = n := by
  have := nnn.isLt
  unfold addr?
  split
  next h => rw [Option.some.injEq]; bv_omega
  next h => simp; omega

/-! ### The forms of R85's mnemonic column -/

theorem asmX_eq_some_iff (mk : RegIdx → Instr) (n : Nat) (i : Instr) :
    asmX mk n = some i ↔ ∃ x : RegIdx, x.val = n ∧ mk x = i := by
  simp [asmX]

theorem asmXY_eq_some_iff (mk : RegIdx → RegIdx → Instr) (m n : Nat) (i : Instr) :
    asmXY mk m n = some i ↔ ∃ x y : RegIdx, x.val = m ∧ y.val = n ∧ mk x y = i := by
  simp [asmXY, Option.bind_eq_some_iff]

theorem asmXK_eq_some_iff (mk : RegIdx → Byte → Instr) (m n : Nat) (i : Instr) :
    asmXK mk m n = some i ↔ ∃ (x : RegIdx) (kk : Byte), x.val = m ∧ kk.toNat = n ∧ mk x kk = i := by
  simp [asmXK, Option.bind_eq_some_iff]

theorem asmN_eq_some_iff (mk : Addr → Instr) (n : Nat) (i : Instr) :
    asmN mk n = some i ↔ ∃ nnn : Addr, nnn.toNat = n ∧ mk nnn = i := by
  simp [asmN]

theorem assemble_spell {i : Instr} (hwf : i.wellFormed = true) : assemble (spell i) = some i := by
  cases i with
  | sys nnn => exact Option.filter_eq_some_iff.mpr ⟨(asmN_eq_some_iff ..).mpr ⟨nnn, rfl, rfl⟩, hwf⟩
  | drw x y n =>
    exact Option.bind_eq_some_iff.mpr
      ⟨n, (reg?_eq_some_iff ..).mpr rfl, (asmXY_eq_some_iff ..).mpr ⟨x, y, rfl, rfl, rfl⟩⟩
  | _ => simp [spell, assemble, asmX_eq_some_iff, asmXY_eq_some_iff, asmXK_eq_some_iff, asmN_eq_some_iff, Fin.val_inj]

/-- Whatever a written instruction assembles to has it as its spelling: form by form, the operands are recovered. -/
theorem spell_of_assemble {a : AsmLine} {i : Instr} (h : assemble a = some i) :
    i.wellFormed = true ∧ spell i = a := by
  obtain ⟨mnemonic, operands⟩ := a
  simp only [assemble] at h
  split at h <;>
    simp only [asmX_eq_some_iff, asmXY_eq_some_iff, asmXK_eq_some_iff, asmN_eq_some_iff, reg?_eq_some_iff,
      Option.some.injEq, Option.bind_eq_some_iff, Option.filter_eq_some_iff, reduceCtorEq] at h
  -- `cls` and `ret`, then `sys`, then `drw`; then the forms of one operand field, and those of two.
  case h_1 | h_2 =>
    subst h
    exact ⟨rfl, rfl⟩
  case h_3 =>
    obtain ⟨⟨nnn, rfl, rfl⟩, hwf⟩ := h
    exact ⟨hwf, rfl⟩
  case h_33 =>
    obtain ⟨n, rfl, x, y, rfl, rfl, rfl⟩ := h
    exact ⟨rfl, rfl⟩
  case h_4 | h_5 | h_6 | h_13 | h_14 | h_15 | h_16 | h_17 | h_18 | h_19 | h_20 | h_21 | h_24 | h_34 | h_35 =>
    obtain ⟨field, rfl, rfl⟩ := h
    exact ⟨rfl, rfl⟩
  all_goals
    obtain ⟨x, field, rfl, rfl, rfl⟩ := h
    exact ⟨rfl, rfl⟩

/-- Settles O7: `assemble_spell` one way, `spell_of_assemble` the other. -/
theorem spellingAssemblesToTheInstruction : Obligations.SpellingAssemblesToTheInstruction :=
  ⟨fun _ => assemble_spell, fun _ _ => spell_of_assemble⟩

end Sys2Proof.Machine
end

section
/-! PROOF. The frame of every instruction: the pieces of state and the registers it can change, and so what no Step changes
(spec/10_state.md R21 to R36; spec/20_memory.md R64; spec/60_exceptions.md R268). -/

namespace Sys2Proof.Machine

/-! ### The frame rules of the remaining writes -/

theorem State.SameBut.setPc {ps : List Part} {s t : State} (h : State.SameBut ps s t) (hps : .pc ∈ ps) (n : Nat) :
    State.SameBut ps s (t.setPc n) := by
  intro p hp
  cases p with
  | pc => exact absurd hps hp
  | _ => exact h _ hp

theorem State.SameBut.skipIf {ps : List Part} {s t : State} (h : State.SameBut ps s t) (hps : .pc ∈ ps) (c : Bool) :
    State.SameBut ps s (t.skipIf c) := by
  cases c with
  | false => exact h
  | true => exact h.setPc hps _

theorem State.SameBut.push {ps : List Part} {s t : State} (h : State.SameBut ps s t) (hps : .stack ∈ ps) (w : Word) :
    State.SameBut ps s (t.push w) := by
  intro p hp
  cases p with
  | stack => exact absurd hps hp
  | _ => exact h _ hp

theorem State.SameBut.pop {ps : List Part} {s t : State} (h : State.SameBut ps s t) (hps : .stack ∈ ps) :
    State.SameBut ps s t.pop := by
  intro p hp
  cases p with
  | stack => exact absurd hps hp
  | _ => exact h _ hp

theorem State.SameBut.takeDraw {ps : List Part} {s t : State} (h : State.SameBut ps s t) (hps : .draws ∈ ps) :
    State.SameBut ps s t.takeDraw := by
  intro p hp
  cases p with
  | draws => exact absurd hps hp
  | _ => exact h _ hp

theorem State.SameBut.countUnknown {ps : List Part} {s t : State} (h : State.SameBut ps s t) (hps : .unknown ∈ ps) :
    State.SameBut ps s t.countUnknown := by
  intro p hp
  cases p with
  | unknown => exact absurd hps hp
  | _ => exact h _ hp

theorem State.SameBut.loadRegs {ps : List Part} {s t : State} (h : State.SameBut ps s t) (hps : .regs ∈ ps)
    (base n : Nat) : State.SameBut ps s (t.loadRegs base n) := by
  induction n with
  | zero => exact h
  | succ k ih => exact ih.setReg hps _ _

/-! ### The pieces of state an instruction changes -/

/-- Settles O23: instruction by instruction, the frame rules of its writes. -/
theorem instructionsChangeOnlyTheirParts : Obligations.InstructionsChangeOnlyTheirParts := by
  intro i s t h
  cases i with
  | sys nnn => cases h; exact State.SameBut.refl [] s
  | cls => cases h; exact (State.SameBut.refl [.disp] s).setDisp (by simp) _
  | drw x y n =>
    cases h
    exact ((State.SameBut.refl [.regs, .disp] s).setDisp (by simp) _).setReg (by simp) _ _
  | ret => cases h; exact ((State.SameBut.refl [.pc, .stack] s).pop (by simp)).setPc (by simp) _
  | call nnn => cases h; exact ((State.SameBut.refl [.pc, .stack] s).push (by simp) _).setPc (by simp) _
  | jp nnn | jpV0 nnn => cases h; exact (State.SameBut.refl [.pc] s).setPc (by simp) _
  | seVxKk x _ | sneVxKk x _ | seVxVy x _ | sneVxVy x _ | skp x | sknp x =>
    cases h
    exact (State.SameBut.refl [.pc] s).skipIf (by simp) _
  | ldVxKk x _ | addVxKk x _ | ldVxVy x _ | orVxVy x _ | andVxVy x _ | xorVxVy x _ | ldVxDT x =>
    cases h
    exact (State.SameBut.refl [.regs] s).setReg (by simp) x _
  | addVxVy x _ | subVxVy x _ | shrVxVy x _ | submVxVy x _ | shlVxVy x _ =>
    cases h
    exact s.sameBut_setRegFlag x _ _
  | rnd x kk => cases h; exact ((State.SameBut.refl [.regs, .draws] s).takeDraw (by simp)).setReg (by simp) x _
  | ldINnn _ | ldFVx _ => cases h; exact (State.SameBut.refl [.index] s).setI (by simp) _
  | addIVx x => cases h; exact ((State.SameBut.refl [.regs, .index] s).setI (by simp) _).setIndexFlag (by simp) _
  | ldVxMem x => cases h; exact ((State.SameBut.refl [.regs, .index] s).loadRegs (by simp) _ _).setI (by simp) _
  | ldBVx x => cases h; exact (State.SameBut.refl [.mem] s).storeBytes (by simp) _ _
  | ldMemVx x => cases h; exact ((State.SameBut.refl [.mem, .index] s).storeBytes (by simp) _ _).setI (by simp) _
  | ldVxK x => cases h; exact (State.SameBut.refl [.waiting] s).setWaiting (by simp) _
  | ldDTVx x => cases h; exact (State.SameBut.refl [.dt] s).setDt (by simp) _
  | ldSTVx x => cases h; exact (State.SameBut.refl [.st] s).setSt (by simp) _

/-! ### The registers an instruction writes (R21, R22) -/

/-- The registers `V[0], …, V[x]` of a block transfer's row. -/
theorem mem_regsUpTo_iff (x z : RegIdx) : z ∈ (List.finRange 16).filter (fun z => z ≤ x) ↔ z.val < x.val + 1 := by
  rw [List.mem_filter, decide_eq_true_iff]
  exact ⟨fun h => Nat.lt_succ_of_le h.2, fun h => ⟨List.mem_finRange z, Nat.le_of_lt_succ h⟩⟩

theorem State.SameBut.regsBut {ps : List Part} {s t : State} (h : State.SameBut ps s t) (hps : .regs ∉ ps)
    (xs : List RegIdx) : State.RegsBut xs s t :=
  fun z _ => h .regs hps z

theorem State.RegsBut.loadRegs {xs : List RegIdx} {s t : State} (h : State.RegsBut xs s t) (base : Nat) {n : Nat}
    (hn : n ≤ 16) (hxs : ∀ z : RegIdx, z.val < n → z ∈ xs) : State.RegsBut xs s (t.loadRegs base n) := by
  intro z hz
  rw [t.reg_loadRegs base n hn z, if_neg (mt (hxs z) hz), h z hz]

theorem State.RegsBut.setIndexFlag {s t : State} {xs : List RegIdx} (h : State.RegsBut xs s t) (f : Byte)
    (hxs : t.config.addIVf = .carry12 → flagReg ∈ xs) : State.RegsBut xs s (t.setIndexFlag f) := by
  cases hc : t.config.addIVf with
  | carry12 => rw [State.setIndexFlag_of_carry12 hc]; exact h.setReg (hxs hc) f
  | unchanged => rwa [State.setIndexFlag_of_unchanged hc]

/-- Settles O24: the register writers by their writes, and every other instruction by its frame. -/
theorem instructionsWriteOnlyTheirRegisters : Obligations.InstructionsWriteOnlyTheirRegisters := by
  intro i s t h
  have frame := instructionsChangeOnlyTheirParts i s t h
  cases i with
  | ldVxKk x _ | addVxKk x _ | ldVxVy x _ | orVxVy x _ | andVxVy x _ | xorVxVy x _ | ldVxDT x | rnd x _ =>
    cases h
    exact (State.RegsBut.refl [x] s).setReg (by simp) _
  | addVxVy x _ | subVxVy x _ | shrVxVy x _ | submVxVy x _ | shlVxVy x _ =>
    cases h
    exact s.regsBut_setRegFlag x _ _
  | drw x y n => cases h; exact ((State.RegsBut.refl [flagReg] s).setDisp _).setReg (by simp) _
  | addIVx x =>
    cases h
    exact ((State.RegsBut.refl _ s).setI _).setIndexFlag _ fun hc => by
      simp [Instr.writes, show s.config.addIVf = .carry12 from hc]
  | ldVxMem x =>
    cases h
    exact ((State.RegsBut.refl _ s).loadRegs _ x.isLt fun z => (mem_regsUpTo_iff x z).mpr).setI _
  | _ => exact frame.regsBut (by simp [Instr.parts]) _

/-! ### What no Step changes -/

theorem exec_keys {i : Instr} {s t : State} (h : exec i s = .next t) : t.keys = s.keys :=
  instructionsChangeOnlyTheirParts i s t h .keys (by cases i <;> simp [Instr.parts])

theorem exec_config {i : Instr} {s t : State} (h : exec i s = .next t) : t.config = s.config :=
  instructionsChangeOnlyTheirParts i s t h .config (by cases i <;> simp [Instr.parts])

theorem exec_unknownCount {i : Instr} {s t : State} (h : exec i s = .next t) : t.unknownCount = s.unknownCount :=
  instructionsChangeOnlyTheirParts i s t h .unknown (by cases i <;> simp [Instr.parts])

/-- R30: no instruction but `call` and `ret` writes `SP` or the stack. -/
theorem exec_sp_stack {i : Instr} {s t : State} (hret : i ≠ .ret) (hcall : ∀ nnn, i ≠ .call nnn)
    (h : exec i s = .next t) : t.sp = s.sp ∧ t.stack = s.stack := by
  refine instructionsChangeOnlyTheirParts i s t h .stack ?_
  cases i with
  | ret => exact absurd rfl hret
  | call nnn => exact absurd rfl (hcall nnn)
  | _ => simp [Instr.parts]

theorem State.sameBut_pollKey (s : State) (w : RegIdx) : State.SameBut [.regs, .waiting] s (s.pollKey w) := by
  obtain ⟨-, h⟩ | ⟨k, -, -, h⟩ := s.pollKey_cases w
  · rw [h]; exact State.SameBut.refl _ s
  · rw [h]; exact ((State.SameBut.refl [.regs, .waiting] s).setReg (by simp) w _).setWaiting (by simp) none

theorem State.sameBut_unknownPath (s : State) : State.SameBut [.pc, .unknown] s s.advance.countUnknown :=
  ((State.SameBut.refl [.pc, .unknown] s).setPc (by simp) _).countUnknown (by simp)

/-- Settles O21: neither path that is no instruction writes a key or a parameter, and no instruction does. -/
theorem stepNeverChangesKeysOrParameters : Obligations.StepNeverChangesKeysOrParameters := by
  intro s t h
  obtain ⟨w, -, rfl⟩ | ⟨-, i, -, hi⟩ | ⟨-, e, -, rfl⟩ := step_cases h
  · exact ⟨s.sameBut_pollKey w .keys (by simp), s.sameBut_pollKey w .config (by simp)⟩
  · exact ⟨exec_keys (s := s.advance) hi, exec_config (s := s.advance) hi⟩
  · exact ⟨rfl, rfl⟩

/-! ### The two paths of a Step that run no instruction (R112, R116) -/

/-- Settles O13: the unknown-opcode path advances and counts. -/
theorem unknownOpcodeIsACountedNoOp : Obligations.UnknownOpcodeIsACountedNoOp := by
  intro s e hw hd
  exact ⟨_, step_of_decode_error hw hd, rfl, s.setPc_pc_toNat _, s.sameBut_unknownPath⟩

theorem State.firstPressed_eq_some {s : State} {k : KeyIdx} (hk : s.key k = true)
    (hlow : ∀ j : KeyIdx, j < k → s.key j = false) : s.firstPressed = some k := by
  refine List.find?_eq_some_iff_getElem.mpr ⟨hk, k.val, by simp, by simp, fun j hj => ?_⟩
  simpa using hlow ⟨j, hj.trans k.isLt⟩ hj

/-- Settles O15: the poll finds the lowest pressed key, and its writes are `V[w]` and the key-wait. -/
theorem keyWaitResolvesToLowestPressedKey : Obligations.KeyWaitResolvesToLowestPressedKey := by
  intro s w k hw hk hlow
  have hpoll : s.pollKey w = (s.setReg w (BitVec.ofNat 8 k.val)).setWaiting none := by
    simp only [State.pollKey, State.firstPressed_eq_some hk hlow]
  refine ⟨s.pollKey w, step_of_waiting hw, ?number, ?ended, ?regs, s.sameBut_pollKey w⟩
  case number =>
    rw [hpoll, State.setWaiting_reg, State.reg_setReg_self, BitVec.toNat_ofNat]
    omega
  case ended => rw [hpoll, State.setWaiting_waitingKey]
  case regs =>
    rw [hpoll]
    exact (State.RegsBut.refl [w] s).setReg (by simp) _

end Sys2Proof.Machine
end

section
/-! PROOF. The invariant: what an instruction can do to memory, `PC` and `SP`, said once each, then every Step and every
host transaction (spec/10_state.md R25, R29, R41; spec/60_exceptions.md R263, R268). -/

namespace Sys2Proof.Machine

/-! ### Memory, `PC` and the stack after an instruction -/

/-- R64: the memory after an instruction is that after some stored bytes; most instructions store none. -/
theorem exec_mem {i : Instr} {s t : State} (h : exec i s = .next t) : ∃ a bs, t.mem = (s.storeBytes a bs).mem := by
  cases i with
  | ldBVx x => cases h; exact ⟨_, _, rfl⟩
  | ldMemVx x => cases h; exact ⟨_, _, rfl⟩
  | _ => cases h; exact ⟨0, [], by simp [State.storeBytes]⟩

theorem State.skipIf_pc_cases (s : State) (c : Bool) :
    (s.skipIf c).pc = s.pc ∨ ∃ n, (s.skipIf c).pc = (s.setPc n).pc := by
  cases c with
  | false => exact .inl rfl
  | true => exact .inr ⟨_, rfl⟩

/-- R25: an instruction leaves `PC` or writes it as every write does, masked. -/
theorem exec_pc {i : Instr} {s t : State} (h : exec i s = .next t) : t.pc = s.pc ∨ ∃ n, t.pc = (s.setPc n).pc := by
  have frame := instructionsChangeOnlyTheirParts i s t h
  cases i with
  | ret | call _ | jp _ | jpV0 _ => cases h; exact .inr ⟨_, rfl⟩
  | seVxKk _ _ | sneVxKk _ _ | seVxVy _ _ | sneVxVy _ _ | skp _ | sknp _ => cases h; exact s.skipIf_pc_cases _
  | _ => exact .inl (frame .pc (by simp [Instr.parts]))

/-- R29, R30: an instruction leaves `SP` and the stack, or is the push of a call, or the pop of a return. -/
theorem exec_stack_cases {i : Instr} {s t : State} (h : exec i s = .next t) :
    (t.sp = s.sp ∧ t.stack = s.stack) ∨ (t.sp = s.spUp ∧ t.stack = (s.push s.pc).stack) ∨
      (t.sp = s.spDown ∧ t.stack = s.stack) := by
  cases i with
  | call nnn => cases h; exact .inr (.inl ⟨rfl, rfl⟩)
  | ret => cases h; exact .inr (.inr ⟨rfl, rfl⟩)
  | _ => exact .inl (exec_sp_stack (by simp) (by simp) h)

/-! ### The invariants along one Step -/

theorem State.depth_congr {s t : State} (h : t.config = s.config) : t.depth = s.depth :=
  congrArg (fun c => c.stackDepth.toNat) h

theorem exec_inv {i : Instr} {s t : State} (h : exec i s = .next t) (hs : s.Inv) : t.Inv := by
  obtain ⟨hwf, hpc, hsp⟩ := hs
  refine ⟨?wf, ?pc, ?sp⟩
  case wf =>
    obtain ⟨a, bs, hmem⟩ := exec_mem h
    rw [exec_config h, hmem, ← s.storeBytes_config a bs]
    exact s.storeBytes_wf a bs hwf
  case pc =>
    obtain hsame | ⟨n, hset⟩ := exec_pc h
    · rwa [hsame]
    · rw [hset, State.setPc_pc_toNat]
      exact Nat.mod_lt _ (by decide)
  case sp =>
    rw [State.depth_congr (exec_config h)]
    obtain ⟨hsame, -⟩ | ⟨hup, -⟩ | ⟨hdown, -⟩ := exec_stack_cases h
    · rwa [hsame]
    · rw [hup]; exact s.spUp_lt
    · rw [hdown]; exact s.spDown_lt

theorem State.StackOk.push {s : State} (h : s.StackOk) {w : Word} (hw : w.toNat < 0x1000) : (s.push w).StackOk := by
  intro j
  rw [State.stack_push]
  split
  · exact hw
  · exact h j

theorem exec_stackOk {i : Instr} {s t : State} (h : exec i s = .next t) (hpc : s.pc.toNat < 0x1000) (hs : s.StackOk) :
    t.StackOk := by
  unfold State.StackOk
  obtain ⟨-, hsame⟩ | ⟨-, hpush⟩ | ⟨-, hsame⟩ := exec_stack_cases h
  · rwa [hsame]
  · rw [hpush]; exact hs.push hpc
  · rwa [hsame]

theorem State.Inv.advance {s : State} (h : s.Inv) : s.advance.Inv := by
  obtain ⟨hwf, -, hsp⟩ := h
  exact ⟨hwf, s.advance_pc_lt, hsp⟩

theorem State.Inv.pollKey {s : State} (h : s.Inv) (w : RegIdx) : (s.pollKey w).Inv := by
  obtain ⟨-, hpoll⟩ | ⟨k, -, -, hpoll⟩ := s.pollKey_cases w <;> rw [hpoll] <;> exact h

theorem State.StackOk.pollKey {s : State} (h : s.StackOk) (w : RegIdx) : (s.pollKey w).StackOk := by
  obtain ⟨-, hpoll⟩ | ⟨k, -, -, hpoll⟩ := s.pollKey_cases w <;> rw [hpoll] <;> exact h

/-- Settles O19: the poll, the instruction on the advanced state, and the unknown-opcode path each keep both. The return
address a call pushes is 12-bit because the advance masked it. -/
theorem stepKeepsTheInvariant : Obligations.StepKeepsTheInvariant := by
  intro s t h
  obtain ⟨w, -, rfl⟩ | ⟨-, i, -, hi⟩ | ⟨-, e, -, rfl⟩ := step_cases h
  · exact ⟨fun hs => hs.pollKey w, fun hs => hs.pollKey w⟩
  · exact ⟨fun hs => exec_inv hi hs.advance, fun hs => exec_stackOk hi s.advance_pc_lt hs⟩
  · exact ⟨fun hs => hs.advance, fun hs => hs⟩

/-- Settles O18: `PC` is 0x200, `SP` and the stack are 0, and memory lists no cell. -/
theorem invariantHoldsAtReset : Obligations.InvariantHoldsAtReset := by
  refine ⟨⟨State.reset_wf, by decide, by decide⟩, ?_⟩
  unfold State.StackOk
  decide

/-! ### Host transactions -/

theorem transact_step {s t : State} (h : step s = .next t) : transact .step s = .next (t, .nothing) := by
  simp only [transact, h, replied]

theorem State.Inv.load {s : State} (h : s.Inv) (off : Nat) (bytes : List Byte) : (s.load off bytes).Inv := by
  obtain ⟨hwf, hpc, hsp⟩ := h
  refine ⟨s.storeBytes_wf off bytes hwf, ?_, ?_⟩ <;> simpa [State.load]

theorem State.resetAgain_inv (s : State) : s.resetAgain.Inv :=
  ⟨rfl, (by decide : resetPc.toNat < 0x1000), s.depth_pos⟩

/-- One transaction always answers, and keeps the invariant and the parameters. -/
theorem transact_inv (tx : Transaction) {s : State} (h : s.Inv) :
    ∃ t r, transact tx s = .next (t, r) ∧ t.Inv ∧ t.config = s.config := by
  cases tx with
  | step =>
    obtain ⟨t, ht⟩ := stepAlwaysHasASuccessor s
    exact ⟨t, _, transact_step ht, (stepKeepsTheInvariant s t ht).1 h, (stepNeverChangesKeysOrParameters s t ht).2⟩
  | load off bytes => exact ⟨_, _, rfl, h.load off bytes, s.storeBytes_config off bytes⟩
  | reset => exact ⟨_, _, rfl, s.resetAgain_inv, rfl⟩
  | tickTimers | setKey _ _ | readDisplay | readSound | abortWait => exact ⟨_, _, rfl, h, rfl⟩

/-- Settles O20: by induction on the transactions, each by `transact_inv`. -/
theorem hostRunsKeepTheInvariant : Obligations.HostRunsKeepTheInvariant := by
  intro txs
  induction txs with
  | nil => exact fun s h => ⟨s, [], rfl, h, rfl, rfl⟩
  | cons tx rest ih =>
    intro s h
    obtain ⟨t, r, htx, ht, htc⟩ := transact_inv tx h
    obtain ⟨u, rs, hrest, hu, hlen, huc⟩ := ih t ht
    exact ⟨u, r :: rs, by simp only [runHost, htx, hrest], hu, by simp [hlen], huc.trans htc⟩

end Sys2Proof.Machine
end

section
/-! PROOF. What an instruction does not look at: `SP`, the stack and the unknown count, bits 15..12 of `I`, and the
registers outside its row (spec/10_state.md R21, R28, R30, R38). -/

namespace Sys2Proof.Machine

/-! ### Operations made of several writes commute with a change that each write commutes with -/

section Commute

variable {f : State → State}

theorem State.skipIf_comm (hset : ∀ s n, f (State.setPc s n) = (f s).setPc n) (hpc : ∀ s, (f s).pc = s.pc) (s : State)
    (c : Bool) : f (s.skipIf c) = (f s).skipIf c := by
  cases c with
  | false => rfl
  | true => simp only [State.skipIf, if_true, hset, hpc]

theorem State.setIndexFlag_comm (hset : ∀ s x b, f (State.setReg s x b) = (f s).setReg x b)
    (hconfig : ∀ s, (f s).config = s.config) (s : State) (b : Byte) :
    f (s.setIndexFlag b) = (f s).setIndexFlag b := by
  cases hc : s.config.addIVf with
  | carry12 => rw [State.setIndexFlag_of_carry12 hc, State.setIndexFlag_of_carry12 (by rwa [hconfig]), hset]
  | unchanged => rw [State.setIndexFlag_of_unchanged hc, State.setIndexFlag_of_unchanged (by rwa [hconfig])]

theorem State.storeBytes_comm (hwrite : ∀ s a b, f (State.memWrite s a b) = (f s).memWrite a b) (s : State) (a : Nat)
    (bs : List Byte) : f (s.storeBytes a bs) = (f s).storeBytes a bs := by
  induction bs generalizing s a with
  | nil => rfl
  | cons b rest ih => rw [State.storeBytes, ih, hwrite, State.storeBytes]

theorem State.loadRegs_comm (hset : ∀ s x b, f (State.setReg s x b) = (f s).setReg x b)
    (hread : ∀ s a, (f s).memRead a = s.memRead a) (s : State) (base n : Nat) :
    f (s.loadRegs base n) = (f s).loadRegs base n := by
  induction n with
  | zero => rfl
  | succ k ih => rw [State.loadRegs, hset, ih, ← hread, ih, State.loadRegs]

theorem State.pollKey_comm (hset : ∀ s x b, f (State.setReg s x b) = (f s).setReg x b)
    (hwait : ∀ s w, f (State.setWaiting s w) = (f s).setWaiting w)
    (hkeys : ∀ s, (f s).firstPressed = s.firstPressed) (s : State) (w : RegIdx) :
    f (s.pollKey w) = (f s).pollKey w := by
  unfold State.pollKey
  rw [hkeys]
  cases s.firstPressed with
  | none => rfl
  | some k => simp only [hset, hwait]

end Commute

/-! ### `SP`, the stack and the unknown count (R30, R38) -/

/-- The same state with another `SP`, other stack entries and another unknown count. -/
def State.withHidden (s : State) (p : Fin 16) (k : Vector Word 16) (n : Nat) : State :=
  { s with sp := p, stack := k, unknownCount := n }

/-- Every instruction but `call` and `ret` does the same whatever these hold. -/
theorem exec_withHidden {i : Instr} {s t : State} (hret : i ≠ .ret) (hcall : ∀ nnn, i ≠ .call nnn)
    (h : exec i s = .next t) (p : Fin 16) (k : Vector Word 16) (n : Nat) :
    exec i (s.withHidden p k n) = .next (t.withHidden p k n) := by
  have skip : ∀ c, (s.skipIf c).withHidden p k n = (s.withHidden p k n).skipIf c :=
    State.skipIf_comm (f := fun s => s.withHidden p k n) (fun _ _ => rfl) (fun _ => rfl) s
  have store : ∀ a bs, (s.storeBytes a bs).withHidden p k n = (s.withHidden p k n).storeBytes a bs :=
    State.storeBytes_comm (f := fun s => s.withHidden p k n) (fun _ _ _ => rfl) s
  cases i with
  | ret => exact absurd rfl hret
  | call nnn => exact absurd rfl (hcall nnn)
  | seVxKk _ _ | sneVxKk _ _ | seVxVy _ _ | sneVxVy _ _ | skp _ | sknp _ =>
    cases h
    rw [skip]
    rfl
  | addIVx x =>
    cases h
    rw [State.setIndexFlag_comm (f := fun s => s.withHidden p k n) (fun _ _ _ => rfl) (fun _ => rfl)]
    rfl
  | ldBVx x => cases h; rw [store]; rfl
  | ldMemVx x =>
    cases h
    exact congrArg (fun t => Host.Outcome.next (State.setI t _)) (store _ _).symm
  | ldVxMem x =>
    cases h
    exact congrArg (fun t => Host.Outcome.next (State.setI t _))
      (State.loadRegs_comm (f := fun s => s.withHidden p k n) (fun _ _ _ => rfl) (fun _ _ => rfl) s _ _).symm
  | _ => cases h; rfl

/-- Settles O26: what an instruction leaves is its frame; what it does is that of `exec_withHidden`. -/
theorem stackIsHiddenFromOtherInstructions : Obligations.StackIsHiddenFromOtherInstructions := by
  intro i s t p k hret hcall h
  obtain ⟨hsp, hstack⟩ := exec_sp_stack hret hcall h
  refine ⟨hsp, hstack, (exec_withHidden hret hcall h p k s.unknownCount).trans ?_⟩
  rw [← exec_unknownCount h]
  rfl

theorem exec_addUnknown {i : Instr} {s t : State} (h : exec i s = .next t) (n : Nat) :
    exec i (s.addUnknown n) = .next (t.addUnknown n) := by
  cases i with
  | ret | call _ => cases h; rfl
  | _ =>
    obtain ⟨hsp, hstack⟩ := exec_sp_stack (by simp) (by simp) h
    refine (exec_withHidden (by simp) (by simp) h s.sp s.stack (s.unknownCount + n)).trans ?_
    rw [← hsp, ← hstack, ← exec_unknownCount h]
    rfl

/-- Settles O27: only the unknown-opcode path counts, and on no path does the count decide anything. -/
theorem unknownCountAffectsNothingElse : Obligations.UnknownCountAffectsNothingElse := by
  intro s t n h
  obtain ⟨w, hw, rfl⟩ | ⟨hw, i, hd, hi⟩ | ⟨hw, e, hd, rfl⟩ := step_cases h
  · have hsame : (s.pollKey w).unknownCount = s.unknownCount := s.sameBut_pollKey w .unknown (by simp)
    refine ⟨hsame.ge, absurd hsame, ?_⟩
    rw [State.pollKey_comm (f := fun s => s.addUnknown n) (fun _ _ _ => rfl) (fun _ _ => rfl) (fun _ => rfl)]
    exact step_of_waiting hw
  · have hsame : t.unknownCount = s.unknownCount := exec_unknownCount (s := s.advance) hi
    exact ⟨hsame.ge, absurd hsame, (step_of_decode_ok (s := s.addUnknown n) hw hd).trans (exec_addUnknown hi n)⟩
  · refine ⟨Nat.le_succ _, fun _ => ⟨hw, e, hd⟩, (step_of_decode_error (s := s.addUnknown n) hw hd).trans ?_⟩
    simp only [State.addUnknown, State.countUnknown, State.advance, State.setPc, Nat.add_right_comm]

end Sys2Proof.Machine
end

section
/-! PROOF. Bits 15..12 of `I` decide nothing (spec/10_state.md R28; spec/20_memory.md R61; spec/43_memory_index.md R181). -/

namespace Sys2Proof.Machine

/-! ### Two states that differ in those bits of `I` -/

theorem State.sameModIndexTop_refl (s : State) : State.SameModIndexTop s s := ⟨rfl, rfl⟩

theorem State.SameModIndexTop.setI {s s' : State} (h : State.SameModIndexTop s s') {m n : Nat}
    (hmn : m % 0x1000 = n % 0x1000) : State.SameModIndexTop (s.setI m) (s'.setI n) := by
  refine ⟨h.1, ?_⟩
  simp only [State.setI_i_toNat]
  omega

theorem State.sameModIndexTop_setI (s : State) {j : Nat} (hj : j % 0x1000 = s.i.toNat % 0x1000) :
    State.SameModIndexTop s (s.setI j) := by
  refine ⟨rfl, ?_⟩
  rw [State.setI_i_toNat]
  omega

theorem State.SameModIndexTop.eq_setI {s s' : State} (h : State.SameModIndexTop s s') : s' = s.setI s'.i.toNat := by
  calc s' = (s'.setI 0).setI s'.i.toNat := by simp [State.setI]
    _ = s.setI s'.i.toNat := by rw [← h.1]; rfl

/-! ### Reads and transfers from `I` on see its low 12 bits only -/

section

variable {s : State} {j : Nat} (hj : j % 0x1000 = s.i.toNat % 0x1000)
include hj

theorem State.setI_i_mod : (s.setI j).i.toNat % 0x1000 = s.i.toNat % 0x1000 := by
  rw [State.setI_i_toNat]
  omega

theorem State.mask12_indexAddr_setI (k : Nat) : mask12 ((s.setI j).indexAddr k) = mask12 (s.indexAddr k) := by
  simp only [State.indexAddr, mask12, Nat.add_mod _ k, State.setI_i_mod hj]

theorem State.blit_setI (x y : RegIdx) (n : Fin 16) : (s.setI j).blit x y n = s.blit x y n := by
  simp only [State.blit, State.setI_disp, State.setI_reg, State.setI_memRead,
    fun k => s.memRead_congr (State.mask12_indexAddr_setI hj k)]

theorem State.storeBytes_setI (bs : List Byte) :
    (s.setI j).storeBytes ((s.setI j).indexAddr 0) bs = (s.storeBytes (s.indexAddr 0) bs).setI j := by
  rw [State.storeBytes_eq, State.storeBytes_eq s]
  simp only [State.storeBytes_mem_congr (s := s) (t := s.setI j) bs rfl rfl (State.mask12_indexAddr_setI hj 0)]
  rfl

theorem State.loadRegs_setI (n : Nat) :
    (s.setI j).loadRegs ((s.setI j).indexAddr 0) n = (s.loadRegs (s.indexAddr 0) n).setI j := by
  induction n with
  | zero => rfl
  | succ k ih =>
    rw [State.loadRegs, ih, State.loadRegs, State.setI_memRead]
    exact congrArg (fun b => ((s.loadRegs (s.indexAddr 0) k).setReg _ b).setI j)
      (State.memRead_congr _ (State.mask12_indexAddr_setI hj k))

theorem State.indexAfterBlock_setI (x : RegIdx) :
    (s.indexAfterBlock x) % 0x1000 = ((s.setI j).indexAfterBlock x) % 0x1000 := by
  have hi := State.setI_i_mod hj
  unfold State.indexAfterBlock
  rw [State.setI_config]
  split <;> omega

theorem State.indexSum_setI (b : Byte) : indexSum (s.setI j).i b = indexSum s.i b := by
  rw [indexSum, State.setI_i_mod hj, indexSum]

/-! ### Every instruction, and every Step -/

theorem exec_sameModIndexTop {i : Instr} {t : State} (h : exec i s = .next t) :
    ∃ t', exec i (s.setI j) = .next t' ∧ State.SameModIndexTop t t' := by
  have frame := instructionsChangeOnlyTheirParts i s t h
  cases i with
  | ldINnn _ | ldFVx _ => cases h; exact ⟨_, rfl, State.sameModIndexTop_refl _⟩
  | addIVx x =>
    cases h
    refine ⟨_, exec_addIVx x _, ?_⟩
    simp only [indexCarry, State.indexSum_setI hj, State.setI_reg]
    exact State.sameModIndexTop_refl _
  | drw x y n =>
    cases h
    refine ⟨_, exec_drw x y n _, ?_⟩
    rw [State.blit_setI hj]
    exact State.sameModIndexTop_setI _ hj
  | ldMemVx x =>
    cases h
    refine ⟨_, exec_ldMemVx x _, ?_⟩
    rw [State.storeBytes_setI hj]
    exact (State.sameModIndexTop_refl _).setI (State.indexAfterBlock_setI hj x)
  | ldVxMem x =>
    cases h
    refine ⟨_, exec_ldVxMem x _, ?_⟩
    rw [State.loadRegs_setI hj]
    exact (State.sameModIndexTop_refl _).setI (State.indexAfterBlock_setI hj x)
  | ldBVx x =>
    cases h
    refine ⟨_, exec_ldBVx x _, ?_⟩
    rw [State.storeBytes_setI hj]
    exact State.sameModIndexTop_setI _ (by rwa [State.storeBytes_i])
  | seVxKk _ _ | sneVxKk _ _ | seVxVy _ _ | sneVxVy _ _ | skp _ | sknp _ =>
    cases h
    refine ⟨_, (congrArg Host.Outcome.next
      (State.skipIf_comm (f := fun s => s.setI j) (fun _ _ => rfl) (fun _ => rfl) s _)).symm, ?_⟩
    exact State.sameModIndexTop_setI _ (by rwa [State.skipIf_i])
  | _ =>
    have hi : t.i = s.i := frame .index (by simp [Instr.parts])
    exact ⟨t.setI j, by cases h; rfl, State.sameModIndexTop_setI t (by rwa [hi])⟩

end

/-- Settles O28: one state is the other with another `I` of the same low 12 bits, and each path of a Step keeps that. -/
theorem indexTopBitsAreNeverObservable : Obligations.IndexTopBitsAreNeverObservable := by
  intro s s' t hss' h
  have hj : s'.i.toNat % 0x1000 = s.i.toNat % 0x1000 := hss'.2.symm
  rw [hss'.eq_setI]
  generalize s'.i.toNat = j at hj
  obtain ⟨w, hw, rfl⟩ | ⟨hw, i, hd, hi⟩ | ⟨hw, e, hd, rfl⟩ := step_cases h
  · refine ⟨_, step_of_waiting (s := s.setI j) hw, ?_⟩
    rw [← State.pollKey_comm (f := fun s => s.setI j) (fun _ _ _ => rfl) (fun _ _ => rfl) (fun _ => rfl)]
    refine State.sameModIndexTop_setI _ ?_
    rwa [show (s.pollKey w).i = s.i from s.sameBut_pollKey w .index (by simp)]
  · obtain ⟨t', ht', hsame⟩ := exec_sameModIndexTop (s := s.advance) hj hi
    exact ⟨t', (step_of_decode_ok (s := s.setI j) hw hd).trans ht', hsame⟩
  · exact ⟨_, step_of_decode_error (s := s.setI j) hw hd, State.sameModIndexTop_setI s.advance.countUnknown hj⟩

end Sys2Proof.Machine
end

section
/-! PROOF. What an instruction does depends on the registers of its row only (spec/10_state.md R21). -/

namespace Sys2Proof.Machine

/-! ### Two states that differ in registers only, and agree on some of them -/

/-- `t'` is `t` but for its registers, and holds the same values as `t` in those of `xs`. -/
def State.SameOn (xs : List RegIdx) (t t' : State) : Prop :=
  t'.withRegs t.v = t ∧ ∀ z ∈ xs, t'.reg z = t.reg z

theorem State.sameOn_withRegs (s : State) (v : Vector Byte 16) : State.SameOn [] s (s.withRegs v) :=
  ⟨rfl, fun _ hz => absurd hz List.not_mem_nil⟩

theorem State.SameOn.mono {xs ys : List RegIdx} {t t' : State} (h : State.SameOn xs t t') (hys : ys ⊆ xs) :
    State.SameOn ys t t' :=
  ⟨h.1, fun z hz => h.2 z (hys hz)⟩

theorem State.SameOn.setReg {xs : List RegIdx} {t t' : State} (h : State.SameOn xs t t') (x : RegIdx) {b b' : Byte}
    (hb : b' = b) : State.SameOn (x :: xs) (t.setReg x b) (t'.setReg x b') := by
  subst hb
  refine ⟨congrArg (fun s => s.withRegs (t.setReg x b').v) h.1, fun z hz => ?_⟩
  by_cases hzx : z = x
  · rw [hzx, State.reg_setReg_self, State.reg_setReg_self]
  · rw [State.reg_setReg_ne _ _ hzx, State.reg_setReg_ne _ _ hzx]
    exact h.2 z (List.mem_of_ne_of_mem hzx hz)

theorem State.SameOn.setRegFlag {xs : List RegIdx} {t t' : State} (h : State.SameOn xs t t') (x : RegIdx)
    {data data' flag flag' : Byte} (hdata : data' = data) (hflag : flag' = flag) :
    State.SameOn [x, flagReg] (t.setRegFlag x data flag) (t'.setRegFlag x data' flag') :=
  ((h.setReg x hdata).setReg flagReg hflag).mono (by simp)

theorem State.SameOn.setI {xs : List RegIdx} {t t' : State} (h : State.SameOn xs t t') {n n' : Nat} (hn : n' = n) :
    State.SameOn xs (t.setI n) (t'.setI n') := by
  subst hn
  exact ⟨congrArg (fun s => s.setI n') h.1, h.2⟩

theorem State.SameOn.setIndexFlag {t t' : State} (h : State.SameOn [] t t') {b b' : Byte} (hb : b' = b) :
    State.SameOn (if t.config.addIVf = .carry12 then [flagReg] else []) (t.setIndexFlag b) (t'.setIndexFlag b') := by
  have hconfig : t'.config = t.config := by rw [← h.1]; rfl
  cases hc : t.config.addIVf with
  | carry12 =>
    rw [if_pos rfl, State.setIndexFlag_of_carry12 hc, State.setIndexFlag_of_carry12 (by rwa [hconfig])]
    exact h.setReg flagReg hb
  | unchanged =>
    rw [if_neg (by decide), State.setIndexFlag_of_unchanged hc, State.setIndexFlag_of_unchanged (by rwa [hconfig])]
    exact h

theorem State.regsBelow_congr {s s' : State} {n : Nat}
    (h : ∀ z : RegIdx, z.val < n → s'.reg z = s.reg z) : s'.regsBelow n = s.regsBelow n := by
  refine List.map_congr_left fun k hk => h _ ?_
  have hk : k < n := List.mem_range.mp hk
  exact lt_of_le_of_lt (Nat.mod_le k 16) hk

theorem State.loadRegs_withRegs (s : State) (v : Vector Byte 16) (base : Nat) (x : RegIdx) :
    State.SameOn ((List.finRange 16).filter fun z => z ≤ x) (s.loadRegs base (x.val + 1))
      ((s.withRegs v).loadRegs base (x.val + 1)) := by
  constructor
  · rw [State.loadRegs_eq (s.withRegs v), State.loadRegs_eq s]
    rfl
  · intro z hz
    have hzx := (mem_regsUpTo_iff x z).mp hz
    rw [State.reg_loadRegs _ _ _ x.isLt, State.reg_loadRegs _ _ _ x.isLt, if_pos hzx, if_pos hzx]
    rfl

/-! ### Every instruction -/

/-- Settles O25: the instructions that write registers write equal values, computed from the registers they read; the
others write none, and what else they write is equal. -/
theorem instructionsReadOnlyTheirRegisters : Obligations.InstructionsReadOnlyTheirRegisters := by
  intro i s t v hread h
  have base := s.sameOn_withRegs v
  have hread : ∀ z ∈ i.reads, (s.withRegs v).reg z = s.reg z := hread
  have skip : ∀ c, (s.withRegs v).skipIf c = (s.skipIf c).withRegs v := fun c =>
    (State.skipIf_comm (f := fun s => s.withRegs v) (fun _ _ => rfl) (fun _ => rfl) s c).symm
  have store : ∀ a bs, (s.withRegs v).storeBytes a bs = (s.storeBytes a bs).withRegs v := fun a bs =>
    (State.storeBytes_comm (f := fun s => s.withRegs v) (fun _ _ _ => rfl) s a bs).symm
  suffices hsame : ∃ t', exec i (s.withRegs v) = .next t' ∧ State.SameOn (i.writes s.config) t t' from hsame
  cases i with
  | cls | ret | sys _ | jp _ | call _ | ldINnn _ | ldVxK _ =>
    cases h
    exact ⟨_, rfl, State.sameOn_withRegs _ v⟩
  | ldVxKk x _ | ldVxDT x => cases h; exact ⟨_, rfl, base.setReg x rfl⟩
  | rnd x kk => cases h; exact ⟨_, rfl, (s.takeDraw.sameOn_withRegs v).setReg x rfl⟩
  | addVxKk x kk =>
    have hx := hread x (by simp [Instr.reads])
    cases h
    exact ⟨_, rfl, base.setReg x (by rw [hx])⟩
  | ldVxVy x y =>
    cases h
    exact ⟨_, rfl, base.setReg x (hread y (by simp [Instr.reads]))⟩
  | orVxVy x y | andVxVy x y | xorVxVy x y =>
    have hx := hread x (by simp [Instr.reads])
    have hy := hread y (by simp [Instr.reads])
    cases h
    exact ⟨_, rfl, base.setReg x (by rw [hx, hy])⟩
  | addVxVy x y | subVxVy x y | submVxVy x y =>
    have hx := hread x (by simp [Instr.reads])
    have hy := hread y (by simp [Instr.reads])
    cases h
    exact ⟨_, rfl, base.setRegFlag x (by rw [hx, hy]) (by rw [hx, hy])⟩
  | shrVxVy x y | shlVxVy x y =>
    have hy := hread y (by simp [Instr.reads])
    cases h
    exact ⟨_, rfl, base.setRegFlag x (by rw [hy]) (by rw [hy])⟩
  | drw x y n =>
    have hx := hread x (by simp [Instr.reads])
    have hy := hread y (by simp [Instr.reads])
    have hblit : (s.withRegs v).blit x y n = s.blit x y n := by
      unfold State.blit
      rw [hx, hy]
      rfl
    cases h
    refine ⟨_, exec_drw x y n _, ?_⟩
    rw [hblit]
    exact ((s.setDisp _).sameOn_withRegs v).setReg flagReg rfl
  | seVxKk x _ | sneVxKk x _ | skp x | sknp x =>
    have hx := hread x (by simp [Instr.reads])
    cases h
    refine ⟨_, congrArg Host.Outcome.next (skip _), ?_⟩
    simp only [State.keyOperand, hx]
    exact State.sameOn_withRegs _ v
  | seVxVy x y | sneVxVy x y =>
    have hx := hread x (by simp [Instr.reads])
    have hy := hread y (by simp [Instr.reads])
    cases h
    refine ⟨_, congrArg Host.Outcome.next (skip _), ?_⟩
    rw [hx, hy]
    exact State.sameOn_withRegs _ v
  | jpV0 nnn =>
    have htarget : (s.withRegs v).jumpV0Target nnn = s.jumpV0Target nnn := by
      rw [State.jumpV0Target, hread 0 (by simp [Instr.reads]), State.jumpV0Target]
    cases h
    refine ⟨_, exec_jpV0 nnn _, ?_⟩
    rw [htarget]
    exact State.sameOn_withRegs _ v
  | ldDTVx x | ldSTVx x =>
    have hx := hread x (by simp [Instr.reads])
    cases h
    refine ⟨_, rfl, ?_⟩
    rw [hx]
    exact State.sameOn_withRegs _ v
  | ldFVx x =>
    have hx := hread x (by simp [Instr.reads])
    cases h
    exact ⟨_, rfl, base.setI (by rw [State.glyphAddr, hx]; rfl)⟩
  | addIVx x =>
    have hx := hread x (by simp [Instr.reads])
    cases h
    exact ⟨_, rfl, (base.setI (by rw [hx]; rfl)).setIndexFlag (by rw [hx]; rfl)⟩
  | ldBVx x =>
    have hx := hread x (by simp [Instr.reads])
    cases h
    refine ⟨_, congrArg Host.Outcome.next (store _ _), ?_⟩
    rw [hx]
    exact State.sameOn_withRegs _ v
  | ldMemVx x =>
    have hregs : (s.withRegs v).regsBelow (x.val + 1) = s.regsBelow (x.val + 1) :=
      State.regsBelow_congr fun z hz => hread z ((mem_regsUpTo_iff x z).mpr hz)
    cases h
    refine ⟨_, exec_ldMemVx x _, ?_⟩
    rw [hregs, store]
    exact State.sameOn_withRegs _ v
  | ldVxMem x =>
    cases h
    exact ⟨_, rfl, (s.loadRegs_withRegs v _ x).setI rfl⟩

end Sys2Proof.Machine
end

section
/-! PROOF. The canonical form determines the memory, the state of creation, and what a run of stored bytes or loaded registers
does (spec/20_memory.md R61, R64, R73; spec/10_state.md R35, R41; spec/43_memory_index.md R184, R185;
spec/60_exceptions.md R262). -/

namespace Sys2Proof.Machine

/-! ### Canonical memories (log entry 7) -/

theorem Memory.lookup_eq_some_iff {m : Memory} (h : m.Pairwise fun p q => p.1 < q.1) (a : Nat) (v : Byte) :
    Memory.lookup a m = some v ↔ (a, v) ∈ m := by
  induction m with
  | nil => simp [Memory.lookup]
  | cons cell rest ih =>
    obtain ⟨b, w⟩ := cell
    obtain ⟨hb, hrest⟩ := List.pairwise_cons.mp h
    simp only [Memory.lookup, List.mem_cons, Prod.mk.injEq]
    by_cases hab : a = b
    · subst hab
      have hnot : (a, v) ∉ rest := fun hmem => Nat.lt_irrefl a (hb _ hmem)
      simp [hnot, eq_comm]
    · simp [hab, ih hrest]

/-- In canonical form a cell is listed exactly when it is a byte of the memory that differs from its reset value. -/
theorem Memory.mem_iff_read {c : Config} {m : Memory} (h : Memory.wf c m = true) (a : Nat) (v : Byte) :
    (a, v) ∈ m ↔ a < 0x1000 ∧ v ≠ resetByte c a ∧ Memory.read c m a = v := by
  obtain ⟨hrising, hcells⟩ := (Memory.wf_iff c m).mp h
  constructor
  · intro hmem
    obtain ⟨ha, hv⟩ := hcells _ hmem
    refine ⟨ha, hv, ?_⟩
    rw [Memory.read, mask12_of_lt ha, (Memory.lookup_eq_some_iff hrising a v).mpr hmem, Option.getD_some]
  · rintro ⟨ha, hv, hread⟩
    rw [Memory.read, mask12_of_lt ha] at hread
    rw [← Memory.lookup_eq_some_iff hrising]
    cases hl : Memory.lookup a m with
    | none => exact absurd (by simpa [hl] using hread.symm) hv
    | some w => simpa [hl] using hread

/-- Settles O9: the two lists have the same cells in the same order. -/
theorem canonicalMemoriesWithEqualBytesAreEqual : Obligations.CanonicalMemoriesWithEqualBytesAreEqual := by
  intro c m m' hm hm' hread
  have hrising := ((Memory.wf_iff c m).mp hm).1
  have hrising' := ((Memory.wf_iff c m').mp hm').1
  have hnodup : ∀ {l : Memory}, l.Pairwise (fun p q => p.1 < q.1) → l.Nodup := fun h =>
    h.imp fun hlt heq => Nat.ne_of_lt hlt (congrArg Prod.fst heq)
  have hperm : m.Perm m' := by
    refine (List.perm_ext_iff_of_nodup (hnodup hrising) (hnodup hrising')).mpr fun ⟨a, v⟩ => ?_
    rw [Memory.mem_iff_read hm, Memory.mem_iff_read hm', hread]
  exact hperm.eq_of_pairwise (fun p q _ _ hpq hqp => absurd hpq (Nat.lt_asymm hqp)) hrising hrising'

/-! ### The state of creation (R35, R41) -/

theorem State.create_memRead (c : Config) (a : Nat) : (State.create c).memRead a = resetByte c (mask12 a) := rfl

theorem fontByte_glyph (c : Config) (g : Fin 16) (k : Fin 5) : fontByte c (5 * g.val + k.val) = (c.fontData[g])[k] := by
  have hg : Fin.ofNat 16 ((5 * g.val + k.val) / 5) = g := Fin.ext (by simp; omega)
  have hk : Fin.ofNat 5 (5 * g.val + k.val) = k := Fin.ext (by simp)
  simp only [fontByte, hg, hk]

/-- Settles O10: memory reads as its reset bytes, which are the font's from `FONT_BASE` on and zero elsewhere. -/
theorem creationInstallsFontAndZeroes : Obligations.CreationInstallsFontAndZeroes := by
  intro c
  refine ⟨fun g k => ?font, fun a ha hout => ?zero, rfl, rfl, rfl, rfl, fun k => ?key, pixel_blankDisplay, fun _ => rfl,
    rfl, rfl, rfl, fun _ => rfl, rfl, rfl⟩
  case font =>
    have hlt : c.fontBase.val + 5 * g.val + k.val < 0x1000 := by omega
    rw [State.create_memRead, mask12_of_lt hlt, resetByte, if_pos (by omega), ← fontByte_glyph]
    congr 1
    omega
  case zero => rw [State.create_memRead, mask12_of_lt ha, resetByte, if_neg (by omega)]
  case key => simp [State.key, State.create]

/-- Settles O11: the creation's values at the default parameters, whose registers are all zero. -/
theorem resetRegistersAreZero : Obligations.ResetRegistersAreZero := by
  unfold Obligations.ResetRegistersAreZero
  decide

/-! ### The Loader (R262, decision D28) -/

theorem State.storeBytes_append (s : State) (a : Nat) (bs cs : List Byte) :
    s.storeBytes a (bs ++ cs) = (s.storeBytes a bs).storeBytes (a + bs.length) cs := by
  induction bs generalizing s a with
  | nil => rfl
  | cons b rest ih =>
    rw [List.cons_append, State.storeBytes, ih, State.storeBytes, List.length_cons, Nat.add_assoc, Nat.add_comm 1]

/-- A stored byte reads back when no later byte wraps onto it, however many bytes came before it. -/
theorem State.memRead_storeBytes_of_le (s : State) (a : Nat) (bs : List Byte) (k : Nat) (hk : k < bs.length)
    (hwrap : bs.length ≤ k + 0x1000) : (s.storeBytes a bs).memRead (a + k) = bs[k] := by
  have hsplit : s.storeBytes a bs = (s.storeBytes a (bs.take k)).storeBytes (a + k) (bs.drop k) := by
    conv_lhs => rw [← List.take_append_drop k bs]
    rw [State.storeBytes_append, List.length_take_of_le (Nat.le_of_lt hk)]
  have hlen : (bs.drop k).length ≤ 0x1000 := by rw [List.length_drop]; omega
  have hpos : 0 < (bs.drop k).length := by rw [List.length_drop]; omega
  rw [hsplit, ← Nat.add_zero (a + k), State.memRead_storeBytes _ _ _ hlen 0 hpos, List.getElem_drop]
  rfl

/-- Settles O57: Load is a run of stored bytes. -/
theorem loadStoresEachByteMasked : Obligations.LoadStoresEachByteMasked := by
  intro off bytes s
  exact ⟨_, rfl, fun k hk hwrap => s.memRead_storeBytes_of_le off bytes k hk hwrap,
    fun a ha => s.memRead_storeBytes_of_ne off a bytes ha, (State.SameBut.refl [.mem] s).storeBytes (by simp) off bytes⟩

/-! ### Block transfers (R184, R185) -/

theorem State.setI_indexAfterBlock (s t : State) (x : RegIdx) :
    (s.config.ldstIncrementsI = true → (t.setI (s.indexAfterBlock x)).i.toNat = (s.i.toNat + x.val + 1) % 2 ^ 16) ∧
    (s.config.ldstIncrementsI = false → (t.setI (s.indexAfterBlock x)).i = s.i) := by
  constructor
  · intro h
    rw [State.setI_i_toNat, State.indexAfterBlock, if_pos h]
    rfl
  · intro h
    simp [State.indexAfterBlock, h]

/-- Register `k` stands at `I + k` once `V[0..x]` are stored from `I` on. -/
theorem State.memRead_storeBytes_regsBelow (s : State) (x k : RegIdx) (hk : k ≤ x) :
    (s.storeBytes (s.indexAddr 0) (s.regsBelow (x.val + 1))).memRead (s.indexAddr k.val) = s.reg k := by
  have hlen : k.val < (s.regsBelow (x.val + 1)).length := by
    rw [State.length_regsBelow]
    exact Nat.lt_succ_of_le hk
  have hle : (s.regsBelow (x.val + 1)).length ≤ 0x1000 := by
    rw [State.length_regsBelow]
    omega
  rw [s.memRead_indexAddr_storeBytes _ hle k.val hlen, State.getElem_regsBelow, Fin.ofNat_val_eq_self]

/-- Settles O43: the stored registers as a run of bytes, then the write of `I`. -/
theorem blockStoreWritesRegistersToMemory : Obligations.BlockStoreWritesRegistersToMemory := by
  intro x s
  obtain ⟨hinc, hkeep⟩ := s.setI_indexAfterBlock (s.storeBytes (s.indexAddr 0) (s.regsBelow (x.val + 1))) x
  refine ⟨_, exec_ldMemVx x s, s.memRead_storeBytes_regsBelow x, fun a ha => ?other, hinc, hkeep,
    ((State.SameBut.refl [.mem, .index] s).storeBytes (by simp) _ _).setI (by simp) _⟩
  refine s.memRead_storeBytes_of_ne_indexAddr _ a fun k hk => ?_
  rw [State.length_regsBelow] at hk
  exact ha ⟨k, Nat.lt_of_lt_of_le hk x.isLt⟩ (Nat.le_of_lt_succ hk)

/-- Settles O44: what `State.reg_loadRegs` says of each register, then the write of `I`. -/
theorem blockLoadReadsRegistersFromMemory : Obligations.BlockLoadReadsRegistersFromMemory := by
  intro x s
  obtain ⟨hinc, hkeep⟩ := s.setI_indexAfterBlock (s.loadRegs (s.indexAddr 0) (x.val + 1)) x
  refine ⟨_, exec_ldVxMem x s, fun k hk => ?loaded, fun k hk => ?kept, hinc, hkeep,
    ((State.SameBut.refl [.regs, .index] s).loadRegs (by simp) _ _).setI (by simp) _⟩
  case loaded =>
    rw [State.setI_reg, s.reg_loadRegs _ _ x.isLt, if_pos (Nat.lt_succ_of_le hk)]
    rfl
  case kept => rw [State.setI_reg, s.reg_loadRegs _ _ x.isLt, if_neg (Nat.not_lt.mpr hk)]

/-! ### Stored code is the next fetch (R73) -/

/-- Settles O17: the two bytes the fetch reads are the first two registers the store wrote. -/
theorem storedBytesAreTheNextFetch : Obligations.StoredBytesAreTheNextFetch := by
  intro s x hx hpc
  refine ⟨_, exec_ldMemVx x s, ?_⟩
  generalize hm : s.storeBytes (s.indexAddr 0) (s.regsBelow (x.val + 1)) = m
  have hstored : ∀ k : RegIdx, k ≤ x → m.memRead (s.pc.toNat + k.val) = s.reg k := fun k hk => by
    rw [← hm, ← s.memRead_storeBytes_regsBelow x k hk]
    refine State.memRead_congr _ ?_
    simp only [State.indexAddr, mask12]
    omega
  have hfetch : (m.setI (s.indexAfterBlock x)).fetch = wordOfBytes (s.reg 0) (s.reg 1) := by
    rw [← hstored 0 (Fin.zero_le x), ← hstored 1 hx, State.fetch, State.setI_pc, ← hm, State.storeBytes_pc]
    rfl
  rw [hfetch, wordOfBytes_toNat, ← Nat.shiftLeft_add_eq_or_of_lt (s.reg 1).isLt, Nat.shiftLeft_eq]

end Sys2Proof.Machine
end

section
/-! PROOF. The stack, the jumps and skips, and the end of a run (spec/45_control_flow.md R220 to R231; spec/10_state.md R29,
R30; spec/70_reset_and_hazards.md R287). -/

namespace Sys2Proof.Machine

/-! ### Jumps (R221, R223, R229) -/

theorem State.setPc_addrImm_toNat (s : State) (nnn : Addr) : (s.setPc (addrImm nnn)).pc.toNat = nnn.toNat := by
  rw [State.setPc_pc_toNat]
  exact Nat.mod_eq_of_lt nnn.isLt

/-- Settles O47: `sys` answers the state it was given. -/
theorem sysChangesNothing : Obligations.SysChangesNothing := by
  intro nnn s
  exact ⟨s, exec_sys nnn s, State.SameBut.refl [] s⟩

/-- Settles O48: each is one write of `PC`. -/
theorem jumpsSetTheProgramCounter : Obligations.JumpsSetTheProgramCounter := by
  intro nnn s
  have frame := fun n => (State.SameBut.refl [.pc] s).setPc (by simp) n
  refine ⟨⟨_, exec_jp nnn s, s.setPc_addrImm_toNat nnn, frame _⟩, ⟨_, exec_jpV0 nnn s, ?_, frame _⟩⟩
  rw [and_0xFFF_eq_mod]
  exact s.setPc_pc_toNat _

/-! ### Calls and returns (R222, R224, R29) -/

/-- Settles O49: the push, then the write of `PC`. -/
theorem callPushesTheReturnAddress : Obligations.CallPushesTheReturnAddress := by
  intro nnn s
  refine ⟨_, exec_call nnn s, (s.push s.pc).setPc_addrImm_toNat nnn, s.spUp_val, s.stackTop_push s.pc, fun j hj => ?_,
    ((State.SameBut.refl [.pc, .stack] s).push (by simp) _).setPc (by simp) _⟩
  exact (s.stack_push s.pc j).trans (if_neg hj)

theorem State.spDown_of_zero {s : State} (h : s.sp.val = 0) : s.spDown.val = s.depth - 1 := by
  have hd := s.depth_pos
  rw [State.spDown_val, h, Nat.zero_add]
  exact Nat.mod_eq_of_lt (Nat.sub_lt hd Nat.one_pos)

theorem State.spDown_of_pos {s : State} (hpos : 0 < s.sp.val) (hlt : s.sp.val < s.depth) :
    s.spDown.val = s.sp.val - 1 := by
  rw [State.spDown_val, show s.sp.val + s.depth - 1 = s.sp.val - 1 + s.depth by omega, Nat.add_mod_right]
  exact Nat.mod_eq_of_lt (by omega)

/-- Settles O50: the pop, then the write of `PC`. -/
theorem returnPopsIntoTheProgramCounter : Obligations.ReturnPopsIntoTheProgramCounter := by
  intro s
  exact ⟨_, exec_ret s, s.pop.setPc_pc_toNat _, State.spDown_of_zero, State.spDown_of_pos, rfl,
    ((State.SameBut.refl [.pc, .stack] s).pop (by simp)).setPc (by simp) _⟩

theorem State.setPc_pc_of_lt {s t : State} (h : s.pc.toNat < 0x1000) : (t.setPc s.pc.toNat).pc = s.pc := by
  rw [State.setPc_pc, mask12_of_lt h, BitVec.ofNat_toNat, BitVec.setWidth_eq]

/-- Settles O51: the return pops the word the call pushed, and steps `SP` back down. -/
theorem returnAfterCallRestoresTheProgramCounter : Obligations.ReturnAfterCallRestoresTheProgramCounter := by
  intro nnn s ⟨_, hpc, hsp⟩
  refine ⟨_, _, exec_call nnn s, exec_ret _, ?pc, s.spDown_push s.pc hsp⟩
  case pc =>
    have htop : ((s.push s.pc).setPc (addrImm nnn)).stackTop = s.pc := s.stackTop_push s.pc
    rw [htop]
    exact State.setPc_pc_of_lt hpc

/-! ### Last in, first out (R30) -/

theorem State.depth_cases (s : State) : s.depth = 16 ∨ s.depth = 12 := by
  unfold State.depth
  cases s.config.stackDepth with
  | d16 => exact .inl rfl
  | d12 => exact .inr rfl

/-- `n` pops read the entries that lie up to `n - 1` steps below `SP`, and no other. -/
theorem State.popWords_congr {s t : State} (n : Nat) (hs : s.sp.val < s.depth) (hsp : t.sp = s.sp)
    (hdepth : t.depth = s.depth)
    (hstack : ∀ (j : Fin 16) (m : Nat), m < n → (j.val + m) % s.depth = s.sp.val → t.stack[j] = s.stack[j]) :
    t.popWords n = s.popWords n := by
  induction n generalizing s t with
  | zero => rfl
  | succ n ih =>
    have htop : t.stackTop = s.stackTop := by
      simpa only [State.stackTop, hsp] using hstack s.sp 0 (Nat.succ_pos n) (Nat.mod_eq_of_lt hs)
    have hdown : t.spDown = s.spDown := by rw [State.spDown, hsp, hdepth, State.spDown]
    have hrest : t.pop.popWords n = s.pop.popWords n := by
      refine ih s.spDown_lt hdown hdepth fun j m hm hj => hstack j (m + 1) (Nat.succ_lt_succ hm) ?_
      rw [State.pop_depth, State.pop_sp, State.spDown_val] at hj
      obtain hd | hd := s.depth_cases <;> rw [hd] at hj hs ⊢ <;> omega
    rw [State.popWords, State.popWords, htop, hrest]

/-- A push and its pop leave what fewer pops than the depth then read: the entry written lies a whole turn below `SP`. -/
theorem State.popWords_pop_push (s : State) (w : Word) {n : Nat} (hs : s.sp.val < s.depth) (hn : n < s.depth) :
    (s.push w).pop.popWords n = s.popWords n := by
  refine State.popWords_congr n hs (s.spDown_push w hs) rfl fun j m hm hj => ?_
  rw [State.pop_stack, State.stack_push, if_neg]
  rintro rfl
  rw [State.spUp_val] at hj
  obtain hd | hd := s.depth_cases <;> rw [hd] at hj hs hn <;> omega

theorem State.pushAll_concat (s : State) (ws : List Word) (w : Word) :
    s.pushAll (ws ++ [w]) = (s.pushAll ws).push w := by
  simp [State.pushAll]

@[simp] theorem State.pushAll_depth (s : State) (ws : List Word) : (s.pushAll ws).depth = s.depth := by
  induction ws using List.reverseRecOn with
  | nil => rfl
  | append_singleton ws w ih => rw [State.pushAll_concat, State.push_depth, ih]

theorem State.pushAll_sp_val (s : State) (ws : List Word) (hs : s.sp.val < s.depth) :
    (s.pushAll ws).sp.val = (s.sp.val + ws.length) % s.depth := by
  induction ws using List.reverseRecOn with
  | nil => exact (Nat.mod_eq_of_lt hs).symm
  | append_singleton ws w ih =>
    rw [State.pushAll_concat, State.push_sp, State.spUp_val, State.pushAll_depth, ih, List.length_append,
      Nat.mod_add_mod]
    rfl

theorem State.popWords_pushAll (s : State) (ws : List Word) (hs : s.sp.val < s.depth) (hlen : ws.length ≤ s.depth) :
    (s.pushAll ws).popWords ws.length = ws.reverse := by
  induction ws using List.reverseRecOn with
  | nil => rfl
  | append_singleton ws w ih =>
    rw [List.length_append, List.length_singleton] at hlen ⊢
    have hsp : (s.pushAll ws).sp.val < (s.pushAll ws).depth := by
      rw [State.pushAll_sp_val s ws hs, State.pushAll_depth]
      exact Nat.mod_lt _ s.depth_pos
    have hn : ws.length < (s.pushAll ws).depth := by
      rw [State.pushAll_depth]
      omega
    rw [State.pushAll_concat, State.popWords, State.stackTop_push, State.popWords_pop_push _ w hsp hn, ih (by omega),
      List.reverse_concat]

/-- Settles O52: the pops by induction on the pushes, `SP` by its count modulo the depth. -/
theorem stackIsLastInFirstOutToItsDepth : Obligations.StackIsLastInFirstOutToItsDepth := by
  intro s ws hs hlen
  refine ⟨s.popWords_pushAll ws hs hlen, fun hfull => Fin.ext ?_⟩
  rw [s.pushAll_sp_val ws hs, hfull, Nat.add_mod_right, Nat.mod_eq_of_lt hs]

/-! ### Skips (R220, R225 to R228, R230, R231) -/

/-- A skip whose condition says `p`: it changes `PC` only, and moves it exactly when `p` holds. -/
theorem State.skipIf_when (s : State) {c : Bool} {p : Prop} (hc : c = true ↔ p) :
    State.SameBut [.pc] s (s.skipIf c) ∧ (p → (s.skipIf c).pc.toNat = (s.pc.toNat + 2) &&& 0xFFF) ∧
      (¬ p → (s.skipIf c).pc = s.pc) := by
  refine ⟨(State.SameBut.refl [.pc] s).skipIf (by simp) c, fun hp => ?_, fun hp => ?_⟩
  · rw [hc.mpr hp, and_0xFFF_eq_mod]
    exact s.setPc_pc_toNat _
  · rw [Bool.eq_false_of_not_eq_true (mt hc.mp hp)]
    rfl

/-- Settles O53: the four comparisons are the conditions of their skips. -/
theorem compareSkipsSkipOneInstruction : Obligations.CompareSkipsSkipOneInstruction := by
  intro x y kk s
  obtain ⟨hse, seTaken, seKept⟩ := s.skipIf_when (beq_iff_eq (a := s.reg x) (b := kk))
  obtain ⟨hsne, sneTaken, sneKept⟩ := s.skipIf_when (bne_iff_ne (a := s.reg x) (b := kk))
  obtain ⟨hseV, seVTaken, seVKept⟩ := s.skipIf_when (beq_iff_eq (a := s.reg x) (b := s.reg y))
  obtain ⟨hsneV, sneVTaken, sneVKept⟩ := s.skipIf_when (bne_iff_ne (a := s.reg x) (b := s.reg y))
  exact ⟨⟨_, exec_seVxKk x kk s, hse, seTaken, seKept⟩,
    ⟨_, exec_sneVxKk x kk s, hsne, sneTaken, fun h => sneKept (not_not.mpr h)⟩,
    ⟨_, exec_seVxVy x y s, hseV, seVTaken, seVKept⟩,
    ⟨_, exec_sneVxVy x y s, hsneV, sneVTaken, fun h => sneVKept (not_not.mpr h)⟩⟩

theorem and_0xF_eq_mod (n : Nat) : n &&& 0xF = n % 0x10 := Nat.and_two_pow_sub_one_eq_mod n 4

theorem lowNibble_val (b : Byte) : (lowNibble b).val = b.toNat &&& 0xF := (and_0xF_eq_mod b.toNat).symm

/-- Settles O54: the key tested is the one the low nibble numbers. -/
theorem keySkipsTestTheLowNibblesKey : Obligations.KeySkipsTestTheLowNibblesKey := by
  intro x k s hk
  have hkey : s.keyOperand x = k := Fin.ext ((lowNibble_val _).trans hk.symm)
  obtain ⟨hskp, skpTaken, skpKept⟩ := s.skipIf_when (c := s.key (s.keyOperand x)) (p := s.key k = true) (by rw [hkey])
  obtain ⟨hsknp, sknpTaken, sknpKept⟩ :=
    s.skipIf_when (c := !s.key (s.keyOperand x)) (p := s.key k = false) (by rw [hkey, Bool.not_eq_true'])
  exact ⟨⟨_, exec_skp x s, hskp, skpTaken, fun h => skpKept (Bool.eq_false_iff.mp h)⟩,
    ⟨_, exec_sknp x s, hsknp, sknpTaken, fun h => sknpKept (Bool.not_eq_false _ ▸ h)⟩⟩

/-! ### The end of a run (R287) -/

theorem State.ended_iff (s : State) :
    s.ended = true ↔ s.waitingKey = none ∧ s.fetch = encode (.jp (BitVec.ofNat 12 s.pc.toNat)) := by
  simp only [State.ended, Bool.and_eq_true, Option.isNone_iff_eq_none, beq_iff_eq]
  rfl

theorem addrImm_ofNat_of_lt {n : Nat} (h : n < 0x1000) : addrImm (BitVec.ofNat 12 n) = n := by
  rw [addrImm, BitVec.toNat_ofNat]
  exact Nat.mod_eq_of_lt h

theorem State.advance_setPc_self {s : State} (h : s.pc.toNat < 0x1000) : s.advance.setPc s.pc.toNat = s := by
  ext1
  case pc => exact State.setPc_pc_of_lt h
  all_goals rfl

/-- Settles O60: the opcode decodes to the jump, which undoes the advance. -/
theorem endedStateStepsToItself : Obligations.EndedStateStepsToItself := by
  intro s hended hpc
  obtain ⟨hw, hfetch⟩ := s.ended_iff.mp hended
  have hd : decode s.fetch = .ok (.jp (BitVec.ofNat 12 s.pc.toNat)) := by rw [hfetch, decodeEncodeAgree _ rfl]
  rw [step_of_decode_ok hw hd, exec_jp, addrImm_ofNat_of_lt hpc, State.advance_setPc_self hpc]

end Sys2Proof.Machine
end

section
/-! PROOF. The instructions that write one register, the reverse subtraction, the index loads and the timer writes
(spec/41_arithmetic.md R130 to R135, R139, R141; spec/43_memory_index.md R180, R182; spec/44_timers_keys.md R200 to R202). -/

namespace Sys2Proof.Machine

/-! ### One register write (R21) -/

/-- What every instruction that only writes `V[x]` leaves. -/
theorem State.setReg_effect (s : State) (x : RegIdx) (b : Byte) :
    (s.setReg x b).reg x = b ∧ State.RegsBut [x] s (s.setReg x b) ∧ State.SameBut [.regs] s (s.setReg x b) :=
  ⟨s.reg_setReg_self x b, (State.RegsBut.refl [x] s).setReg (by simp) b,
    (State.SameBut.refl [.regs] s).setReg (by simp) x b⟩

/-- Settles O29: one register write each. -/
theorem loadsIntoARegister : Obligations.LoadsIntoARegister := by
  intro x y kk s
  exact ⟨⟨_, exec_ldVxKk x kk s, s.setReg_effect x _⟩, ⟨_, exec_ldVxVy x y s, s.setReg_effect x _⟩,
    ⟨_, exec_ldVxDT x s, s.setReg_effect x _⟩⟩

/-- Settles O30: one register write, of the wrapped sum. -/
theorem addImmediateWrapsWithoutFlag : Obligations.AddImmediateWrapsWithoutFlag := by
  intro x kk s
  obtain ⟨hreg, hframe⟩ := s.setReg_effect x (addData (s.reg x) kk)
  exact ⟨_, exec_addVxKk x kk s, by rw [hreg, addData_toNat], hframe⟩

/-- Settles O31: one register write each, whose bits are those of the bitwise operation. -/
theorem logicIsBitwiseWithoutFlag : Obligations.LogicIsBitwiseWithoutFlag := by
  intro x y s
  obtain ⟨hor, orFrame⟩ := s.setReg_effect x (s.reg x ||| s.reg y)
  obtain ⟨hand, andFrame⟩ := s.setReg_effect x (s.reg x &&& s.reg y)
  obtain ⟨hxor, xorFrame⟩ := s.setReg_effect x (s.reg x ^^^ s.reg y)
  exact ⟨⟨_, exec_orVxVy x y s, fun b => by rw [hor, BitVec.getLsbD_or], orFrame⟩,
    ⟨_, exec_andVxVy x y s, fun b => by rw [hand, BitVec.getLsbD_and], andFrame⟩,
    ⟨_, exec_xorVxVy x y s, fun b => by rw [hxor, BitVec.getLsbD_xor], xorFrame⟩⟩

/-- Settles O34: the writes are those of `State.setRegFlag`, of `V[y] - V[x]` and its NOT-borrow. -/
theorem reverseSubtractSetsNotBorrow : Obligations.ReverseSubtractSetsNotBorrow := by
  intro x y s
  refine ⟨_, exec_submVxVy x y s, fun hx => ?data, ?flag, s.regsBut_setRegFlag _ _ _, s.sameBut_setRegFlag _ _ _⟩
  case data => rw [s.reg_setRegFlag_of_ne _ _ hx, subData_toNat]
  case flag => simp only [s.reg_setRegFlag_flagReg, subNotBorrow_eq, ge_iff_le, BitVec.le_def]

/-- Settles O36: the draw is taken, then the masked byte is written. -/
theorem randomByteIsMaskedByImmediate : Obligations.RandomByteIsMaskedByImmediate := by
  intro x kk s
  obtain ⟨hreg, hregs, -⟩ := s.takeDraw.setReg_effect x (s.nextDraw &&& kk)
  refine ⟨_, exec_rnd x kk s, fun b => ?_, rfl, hregs,
    ((State.SameBut.refl [.regs, .draws] s).takeDraw (by simp)).setReg (by simp) x _⟩
  rw [hreg, BitVec.getLsbD_and, State.nextDraw]

/-! ### The index loads and the timers -/

/-- A glyph's address fits `I`: the font ends below `0x200`. -/
theorem State.glyphAddr_lt (s : State) (x : RegIdx) : s.glyphAddr x < 0x10000 := by
  unfold State.glyphAddr
  omega

/-- Settles O40: one write of `I` each, of a value that fits it. -/
theorem indexLoads : Obligations.IndexLoads := by
  intro nnn x s
  have frame := fun n => (State.SameBut.refl [.index] s).setI (by simp) n
  refine ⟨⟨_, exec_ldINnn nnn s, ?address, frame _⟩, ⟨_, exec_ldFVx x s, ?glyph, frame _⟩⟩
  case address =>
    rw [State.setI_i_toNat, addrImm]
    omega
  case glyph => rw [State.setI_i_toNat, Nat.mod_eq_of_lt (s.glyphAddr_lt x), State.glyphAddr, lowNibble_val]

theorem State.sound_iff (s : State) : s.sound = true ↔ s.st ≠ 0 := bne_iff_ne

/-- Settles O45: one timer write each; the sound output reads the timer just written. -/
theorem timersAreSetFromARegister : Obligations.TimersAreSetFromARegister := by
  intro x s
  exact ⟨⟨_, exec_ldDTVx x s, rfl, (State.SameBut.refl [.dt] s).setDt (by simp) _⟩,
    ⟨_, exec_ldSTVx x s, rfl, State.sound_iff _, (State.SameBut.refl [.st] s).setSt (by simp) _⟩⟩

end Sys2Proof.Machine
end

section
/-! PROOF. Clearing the display, drawing twice, and the host's transactions but Step, TickTimers and Load
(spec/42_display.md R162, R164; spec/10_state.md R34; spec/60_exceptions.md R259 to R263). -/

namespace Sys2Proof.Machine

/-! ### The display -/

/-- Settles O37: one write of the display, to the blank one. -/
theorem clearScreenTurnsEveryPixelOff : Obligations.ClearScreenTurnsEveryPixelOff := by
  intro s
  exact ⟨_, exec_cls s, pixel_blankDisplay, (State.SameBut.refl [.disp] s).setDisp (by simp) _⟩

theorem flagByte_eq_one_iff (b : Bool) : flagByte b = 1 ↔ b = true := by
  cases b <;> decide

/-- What a draw hits depends on its two coordinates, `I` and memory only. -/
theorem State.spriteHits_congr {s t : State} {x y : RegIdx} (hx : t.reg x = s.reg x) (hy : t.reg y = s.reg y)
    (hi : t.i = s.i) (hmem : ∀ a, t.memRead a = s.memRead a) (n : Nat) (r : Fin 32) (c : Fin 64) :
    t.SpriteHits x y n r c ↔ s.SpriteHits x y n r c := by
  simp only [State.SpriteHits, State.spriteBit, hx, hy, hi, hmem]

/-- Settles O39: the second draw hits the pixels the first one hit, and turns each over again. -/
theorem drawingTwiceRestoresTheDisplay : Obligations.DrawingTwiceRestoresTheDisplay := by
  intro x y n s t h hx hy
  have frame := instructionsChangeOnlyTheirParts _ s t h
  have hi : t.i = s.i := frame .index (by simp [Instr.parts])
  have hmem : ∀ a, t.memRead a = s.memRead a := frame .mem (by simp [Instr.parts])
  have hhits := State.spriteHits_congr hx hy hi hmem n.val
  have hdisp : t.disp = (s.blit x y n).disp := by cases h; rfl
  have hlit : ∀ r c, s.SpriteHits x y n.val r c → t.disp.pixel r c = !s.disp.pixel r c := fun r c hit => by
    rw [hdisp, State.pixel_blit_of_spriteHits hit]
  refine ⟨_, exec_drw x y n t, Display.ext_pixel fun r c => ?restored, ?flag⟩
  case restored =>
    rw [State.setFlag_eq, State.setReg_disp, State.setDisp_disp]
    by_cases hit : s.SpriteHits x y n.val r c
    · rw [State.pixel_blit_of_spriteHits ((hhits r c).mpr hit), hlit r c hit, Bool.not_not]
    · rw [State.pixel_blit_of_not_spriteHits (mt (hhits r c).mp hit), hdisp, State.pixel_blit_of_not_spriteHits hit]
  case flag =>
    rw [State.setFlag_eq, State.reg_setReg_self, flagByte_eq_one_iff, State.hit_blit]
    refine exists_congr fun r => exists_congr fun c => ?_
    rw [hhits r c]
    exact and_congr_right fun hit => by rw [hlit r c hit, Bool.not_eq_true']

/-! ### The host's transactions -/

theorem State.key_setKey (s : State) (k j : KeyIdx) (b : Bool) :
    (s.setKey k b).key j = if j = k then b else s.key j := by
  simp only [State.key, State.setKey_keys, Fin.getElem_fin, Vector.getElem_set, Fin.ext_iff, eq_comm]

theorem State.SameBut.setKey {ps : List Part} {s t : State} (h : State.SameBut ps s t) (hps : .keys ∈ ps) (k : KeyIdx)
    (b : Bool) : State.SameBut ps s (t.setKey k b) := by
  intro p hp
  cases p with
  | keys => exact absurd hps hp
  | _ => exact h _ hp

/-- Settles O56: one write of the keys. -/
theorem setKeySetsOneKey : Obligations.SetKeySetsOneKey := by
  intro k b s
  refine ⟨_, rfl, ?_, fun j hj => ?_, (State.SameBut.refl [.keys] s).setKey (by simp) k b⟩
  · rw [s.key_setKey, if_pos rfl]
  · rw [s.key_setKey, if_neg hj]

/-- Reset is creation but for the count of draws. -/
theorem State.sameBut_resetAgain (s : State) : State.SameBut [.draws] (State.create s.config) s.resetAgain := by
  intro p hp
  cases p with
  | draws => exact absurd (List.mem_singleton_self _) hp
  | _ => exact State.SameBut.refl [.draws] (State.create s.config) _ hp

/-- Settles O58: AbortWait is one write of the key-wait, and Reset is `State.resetAgain`. -/
theorem abortWaitAndResetTransactions : Obligations.AbortWaitAndResetTransactions := by
  intro s
  exact ⟨⟨_, rfl, rfl, (State.SameBut.refl [.waiting] s).setWaiting (by simp) none⟩,
    ⟨_, rfl, s.sameBut_resetAgain, rfl, rfl⟩⟩

/-- R34: pixel `(r, c)` in the byte view. -/
theorem displayByte_getLsbD (d : Display) (r : Fin 32) (c : Fin 64) {k : Fin 256} (hk : k.val = 8 * r.val + c.val / 8) :
    (displayByte d k).getLsbD (7 - c.val % 8) = d.pixel r c := by
  have hrow : Fin.ofNat 32 (k.val / 8) = r := Fin.ext (by simp; omega)
  have hbit : 56 - 8 * (k.val % 8) + (7 - c.val % 8) = 63 - c.val := by omega
  rw [displayByte, BitVec.getLsbD_extractLsb', decide_eq_true (by omega), Bool.true_and, hbit]
  simp only [hrow, Display.pixel]

/-- Settles O59: the reads answer the state they were given, with its sound, its pixels, and their byte view. -/
theorem readTransactionsReportDisplayAndSound : Obligations.ReadTransactionsReportDisplayAndSound := by
  intro s
  exact ⟨⟨_, rfl, s.sound_iff⟩, rfl, fun r c _ hk => displayByte_getLsbD s.disp r c hk⟩

end Sys2Proof.Machine
end
